-- ==== Sys2Proof/Word.lean ====
section
/-! DEFINITION. The widths of 00_scope.md R5: A, X, Y, SP and P have 8 bits, PC and the address space 16. -/

namespace Sys2Proof

/-- An 8-bit value: a data byte or an 8-bit register. -/
abbrev Byte := BitVec 8

/-- A 16-bit value: PC, a short, a 16-bit address. -/
abbrev Word := BitVec 16

/-- An address given to the bus. 16 bits, or 17 bits when P_EA_OVERFLOW = `FLOAT` (10_state.md R32,
30_encoding.md R109); an address of 0x10000 or more is owned by no device. -/
abbrev BusAddr := BitVec 17

end Sys2Proof
end

