-- ==== Sys2Proof/Config.lean ====
section
/-! DEFINITION. The launch parameters of 00_scope.md R5, as plain data, with the value this spec takes for each;
and the free values: constants with no body, for results the spec leaves under no law. -/

namespace Sys2Proof

/-- P_UNKNOWN_OPCODE (40_core_cycle.md R146, D3). -/
inductive UnknownOpcodePolicy where
  | nop | fault
  deriving DecidableEq, Repr

/-- P_BRANCH_MODE (45_control.md R243, D10). -/
inductive BranchMode where
  | orZext8 | orSext16 | addSigned
  deriving DecidableEq, Repr

/-- P_ZP_INDEX_WRAP (30_encoding.md R107, D12). -/
inductive ZpIndexWrap where
  | wrap8 | noWrap
  deriving DecidableEq, Repr

/-- P_EA_OVERFLOW (30_encoding.md R109, D13). -/
inductive EaOverflow where
  | wrap16 | float
  deriving DecidableEq, Repr

/-- P_ROTATE_CARRY_IN (44_shift_rotate.md R233, R234, D16). -/
inductive RotateCarryIn where
  | old | new
  deriving DecidableEq, Repr

/-- P_DECIMAL (43_arith_logic.md R201, D18). -/
inductive DecimalPolicy where
  | draw | binary
  deriving DecidableEq, Repr

/-- P_REG_INIT (10_state.md R37, D6): A, X, Y and P unwritten after reset, or values the launch supplies. -/
inductive RegInit where
  | unwritten
  | values (a x y p : Byte)
  deriving DecidableEq, Repr

/-- The implementation parameters of 00_scope.md R5, fixed for a launch. DeviceMap, RAM_INIT and ROM_FILL are the
bus's data (Machine/State.lean); P_END is in Safety.lean. -/
structure Config where
  /-- P_SUPPORTED, as the documented opcodes a machine removes from the 151 (30_encoding.md R123). -/
  removedOpcodes : List Byte
  unknownOpcode : UnknownOpcodePolicy
  /-- P_RESET_VECTOR -/
  resetVector : Word
  /-- P_BRK_VECTOR -/
  brkVector : Word
  /-- P_STACK_PAGE -/
  stackPage : Byte
  /-- P_SP_RESET -/
  spReset : Byte
  /-- P_PAGE_DIVISOR -/
  pageDivisor : Nat
  branchMode : BranchMode
  zpIndexWrap : ZpIndexWrap
  eaOverflow : EaOverflow
  rotateCarryIn : RotateCarryIn
  /-- P_STORE_SETS_NZ -/
  storeSetsNZ : Bool
  decimal : DecimalPolicy
  /-- P_PHP_MASK -/
  phpMask : Byte
  /-- P_JSR_RET_BIAS: 1, or the alternative 0. -/
  jsrRetBias : Word
  /-- P_CYCLES, as the opcodes whose base cost differs from the table of 30_encoding.md R121. -/
  cycleOverrides : List (Byte × Nat)
  regInit : RegInit
  deriving DecidableEq, Repr

/-- The value taken for each parameter by the table of 00_scope.md R5, except P_REG_INIT, whose alternative
`VALUES` is taken with zeros. DESIGN CHOICE (log 1): unsafe. -/
def Config.taken : Config where
  removedOpcodes := []
  unknownOpcode := .nop
  resetVector := 0xFFFC#16
  brkVector := 0xFFFE#16
  stackPage := 0x01#8
  spReset := 0xFF#8
  pageDivisor := 255
  branchMode := .orZext8
  zpIndexWrap := .wrap8
  eaOverflow := .wrap16
  rotateCarryIn := .old
  storeSetsNZ := false
  decimal := .draw
  phpMask := 0x30#8
  jsrRetBias := 1#16
  cycleOverrides := []
  regInit := .values 0x00#8 0x00#8 0x00#8 0x00#8

/-! ## Free values: nothing constrains them, and every statement holds whatever they are -/

/-- `draw8()` (00_scope.md R7), one value for each draw: A after a decimal ADC or SBC (43_arith_logic.md R201). -/
opaque Config.draw8 : Nat → Byte

/-- A drawn flag (43_arith_logic.md R201): C, Z, V, N after a decimal ADC or SBC. -/
opaque Config.drawFlag : Nat → Bool

/-- `data_latch` after an instruction: any value (10_state.md R33, U13). -/
opaque Config.freeDataLatch : Nat → Word

/-- A byte routed to a RAM or ROM device at an address outside the device's own range: the spec states no result
(20_memory.md R65 says the case does not arise). DESIGN CHOICE (log 11): safe. -/
opaque Config.outOfRangeByte : Nat → Byte

/-! ## Peripheral devices: opaque total functions over the device's own storage (20_memory.md R60, R62)

Each takes the peripheral's unit number, its own storage, and the address given to the bus; a read answers a value
of the access width and the storage after it, since a read may have an effect (R78). A hook sees the shadow latch,
`lastAddress` and `lastData`, and nothing else of the bus (R73, R74). -/

opaque Config.peripheralRead8 : Nat → List Byte → BusAddr → Byte × List Byte
opaque Config.peripheralRead16 : Nat → List Byte → BusAddr → Word × List Byte
opaque Config.peripheralWrite8 : Nat → List Byte → BusAddr → Byte → List Byte
opaque Config.peripheralWrite16 : Nat → List Byte → BusAddr → Word → List Byte
opaque Config.peripheralBeforeClock : Nat → BusAddr → Word → List Byte → List Byte
opaque Config.peripheralClock : Nat → BusAddr → Word → List Byte → List Byte
opaque Config.peripheralAfterClock : Nat → BusAddr → Word → List Byte → List Byte

end Sys2Proof
end

