-- ==== Sys2Proof/Syntax.lean ====
section
/-! DEFINITION. The abstract syntax of the 151 documented opcodes (30_encoding.md R120, R121): one constructor
of `Instr` for each row of spec/opcode_table.json, its operand bytes as whole fields (R101). -/

namespace Sys2Proof

/-- The 56 mnemonics of 00_scope.md R2. -/
inductive Mnemonic where
  | lda | ldx | ldy | sta | stx | sty | tax | tay | txa | tya | tsx | txs
  | pha | php | pla | plp | adc | sbc | and | ora | eor | bit | cmp | cpx
  | cpy | inc | dec | inx | iny | dex | dey | asl | lsr | rol | ror | jmp
  | jsr | rts | bpl | bmi | bvc | bvs | bcc | bcs | bne | beq | brk | rti
  | clc | sec | cli | sei | cld | sed | clv | nop
  deriving DecidableEq, Repr

/-- The 13 addressing modes (formats) of 30_encoding.md R101. -/
inductive Mode where
  | imp | acc | imm | zp | zpX | zpY | abs | absX | absY | indX | indY | ind | rel
  deriving DecidableEq, Repr

/-- The operand of a mode that has a resolver (30_encoding.md R101, R105 to R115): the mode with the operand
bytes it takes from the instruction stream. Implied and accumulator modes have no resolver (R116). -/
inductive Operand where
  /-- immediate, the operand value itself (R105) -/
  | imm (n : Byte)
  /-- zero page (R106) -/
  | zp (zz : Byte)
  /-- zero page,X (R107) -/
  | zpX (zz : Byte)
  /-- zero page,Y (R107) -/
  | zpY (zz : Byte)
  /-- absolute (R108) -/
  | abs (addr : Word)
  /-- absolute,X (R109) -/
  | absX (addr : Word)
  /-- absolute,Y (R109) -/
  | absY (addr : Word)
  /-- indexed indirect, (zp,X) (R111) -/
  | indX (zz : Byte)
  /-- indirect indexed, (zp),Y (R113) -/
  | indY (zz : Byte)
  /-- absolute indirect, used by JMP only (R114) -/
  | ind (addr : Word)
  /-- relative, the raw offset byte of a branch (R115) -/
  | rel (rr : Byte)
  deriving DecidableEq, Repr

/-- An instruction: one constructor per row of the opcode table. The name is the mnemonic followed by the mode
where the mnemonic has more than one kind of form. -/
inductive Instr where
  | ldaIndX (zz : Byte)
  | ldaZp (zz : Byte)
  | ldaImm (n : Byte)
  | ldaAbs (addr : Word)
  | ldaIndY (zz : Byte)
  | ldaZpX (zz : Byte)
  | ldaAbsY (addr : Word)
  | ldaAbsX (addr : Word)
  | ldxImm (n : Byte)
  | ldxZp (zz : Byte)
  | ldxAbs (addr : Word)
  | ldxZpY (zz : Byte)
  | ldxAbsY (addr : Word)
  | ldyImm (n : Byte)
  | ldyZp (zz : Byte)
  | ldyAbs (addr : Word)
  | ldyZpX (zz : Byte)
  | ldyAbsX (addr : Word)
  | staIndX (zz : Byte)
  | staZp (zz : Byte)
  | staAbs (addr : Word)
  | staIndY (zz : Byte)
  | staZpX (zz : Byte)
  | staAbsY (addr : Word)
  | staAbsX (addr : Word)
  | stxZp (zz : Byte)
  | stxAbs (addr : Word)
  | stxZpY (zz : Byte)
  | styZp (zz : Byte)
  | styAbs (addr : Word)
  | styZpX (zz : Byte)
  | tax
  | tay
  | txa
  | tya
  | tsx
  | txs
  | pha
  | php
  | pla
  | plp
  | adcIndX (zz : Byte)
  | adcZp (zz : Byte)
  | adcImm (n : Byte)
  | adcAbs (addr : Word)
  | adcIndY (zz : Byte)
  | adcZpX (zz : Byte)
  | adcAbsY (addr : Word)
  | adcAbsX (addr : Word)
  | sbcIndX (zz : Byte)
  | sbcZp (zz : Byte)
  | sbcImm (n : Byte)
  | sbcAbs (addr : Word)
  | sbcIndY (zz : Byte)
  | sbcZpX (zz : Byte)
  | sbcAbsY (addr : Word)
  | sbcAbsX (addr : Word)
  | andIndX (zz : Byte)
  | andZp (zz : Byte)
  | andImm (n : Byte)
  | andAbs (addr : Word)
  | andIndY (zz : Byte)
  | andZpX (zz : Byte)
  | andAbsY (addr : Word)
  | andAbsX (addr : Word)
  | oraIndX (zz : Byte)
  | oraZp (zz : Byte)
  | oraImm (n : Byte)
  | oraAbs (addr : Word)
  | oraIndY (zz : Byte)
  | oraZpX (zz : Byte)
  | oraAbsY (addr : Word)
  | oraAbsX (addr : Word)
  | eorIndX (zz : Byte)
  | eorZp (zz : Byte)
  | eorImm (n : Byte)
  | eorAbs (addr : Word)
  | eorIndY (zz : Byte)
  | eorZpX (zz : Byte)
  | eorAbsY (addr : Word)
  | eorAbsX (addr : Word)
  | bitZp (zz : Byte)
  | bitAbs (addr : Word)
  | cmpIndX (zz : Byte)
  | cmpZp (zz : Byte)
  | cmpImm (n : Byte)
  | cmpAbs (addr : Word)
  | cmpIndY (zz : Byte)
  | cmpZpX (zz : Byte)
  | cmpAbsY (addr : Word)
  | cmpAbsX (addr : Word)
  | cpxImm (n : Byte)
  | cpxZp (zz : Byte)
  | cpxAbs (addr : Word)
  | cpyImm (n : Byte)
  | cpyZp (zz : Byte)
  | cpyAbs (addr : Word)
  | incZp (zz : Byte)
  | incAbs (addr : Word)
  | incZpX (zz : Byte)
  | incAbsX (addr : Word)
  | decZp (zz : Byte)
  | decAbs (addr : Word)
  | decZpX (zz : Byte)
  | decAbsX (addr : Word)
  | inx
  | iny
  | dex
  | dey
  | aslZp (zz : Byte)
  | aslAcc
  | aslAbs (addr : Word)
  | aslZpX (zz : Byte)
  | aslAbsX (addr : Word)
  | lsrZp (zz : Byte)
  | lsrAcc
  | lsrAbs (addr : Word)
  | lsrZpX (zz : Byte)
  | lsrAbsX (addr : Word)
  | rolZp (zz : Byte)
  | rolAcc
  | rolAbs (addr : Word)
  | rolZpX (zz : Byte)
  | rolAbsX (addr : Word)
  | rorZp (zz : Byte)
  | rorAcc
  | rorAbs (addr : Word)
  | rorZpX (zz : Byte)
  | rorAbsX (addr : Word)
  | jmpAbs (addr : Word)
  | jmpInd (addr : Word)
  | jsr (addr : Word)
  | rts
  | bpl (rr : Byte)
  | bmi (rr : Byte)
  | bvc (rr : Byte)
  | bvs (rr : Byte)
  | bcc (rr : Byte)
  | bcs (rr : Byte)
  | bne (rr : Byte)
  | beq (rr : Byte)
  | brk
  | rti
  | clc
  | sec
  | cli
  | sei
  | cld
  | sed
  | clv
  | nop
  deriving DecidableEq, Repr

end Sys2Proof
end

