-- ==== Sys2Proof/WellFormed.lean ====
section
/-! DEFINITION. What must hold of an instruction and of a launch's parameters. The spec leaves no instruction term
ill-formed: "no operand field value is reserved. Every operand byte value is legal in every mode" (30_encoding.md
R122), and `Instr` carries exactly the operand bits its mode has. The checks with content are those of the
parameters. -/

namespace Sys2Proof

/-- Every instruction term is well formed (30_encoding.md R122): no operand field value is reserved. -/
def Instr.wf (_ : Instr) : Bool := true

/-- The page test divides by P_PAGE_DIVISOR (30_encoding.md R112), so the divisor is not zero. -/
def Config.divisorOk (c : Config) : Bool := decide (c.pageDivisor ≠ 0)

/-- P_JSR_RET_BIAS is 1 or 0 (00_scope.md R5). -/
def Config.biasOk (c : Config) : Bool := c.jsrRetBias == 0#16 || c.jsrRetBias == 1#16

/-- The parameters are of the kinds 00_scope.md R5 lists. -/
def Config.wf (c : Config) : Bool := c.divisorOk && c.biasOk

end Sys2Proof
end

