-- ==== Sys2Proof/Decode.lean ====
section
/-! DEFINITION. The opcode table of 30_encoding.md R120 and R121, the decoder over bytes (R100, R124, 40 R143),
and the encoder. The decoder reads the table's `build` column; the encoder is written from the same opcode map,
constructor by constructor. -/

namespace Sys2Proof

/-- `hi ++ lo`: a 16-bit value from its two bytes, the low byte at the lower address (20_memory.md R75). -/
def joinLE (lo hi : Byte) : Word := hi ++ lo

/-- The low byte, `lo(v16)` of 00_scope.md R6. -/
def lowByte (w : Word) : Byte := w.extractLsb' 0 8

/-- The high byte, `hi(v16)` of 00_scope.md R6. -/
def highByte (w : Word) : Byte := w.extractLsb' 8 8

/-- The page-cross column of R121: no penalty, the penalty of R118, or a branch's cost rule (45 R245). -/
inductive Penalty where
  | no | yes | branch
  deriving DecidableEq, Repr

/-- What an opcode's operand bytes build: no operand byte, one whole byte, or two bytes little-endian (R101). -/
inductive Build where
  | none (i : Instr)
  | byte (f : Byte → Instr)
  | word (f : Word → Instr)

/-- One row of the table of R121, with the constructor the row builds. -/
structure Row where
  opcode : Byte
  mnemonic : Mnemonic
  mode : Mode
  bytes : Nat
  cost : Nat
  penalty : Penalty
  build : Build

/-- Row 0x of the opcode map (R120), with the columns of R121. -/
def opcodeRows0 : List Row := [
  ⟨0x00#8, .brk, .imp, 1, 7, .no, .none .brk⟩,
  ⟨0x01#8, .ora, .indX, 2, 6, .no, .byte .oraIndX⟩,
  ⟨0x05#8, .ora, .zp, 2, 3, .no, .byte .oraZp⟩,
  ⟨0x06#8, .asl, .zp, 2, 5, .no, .byte .aslZp⟩,
  ⟨0x08#8, .php, .imp, 1, 3, .no, .none .php⟩,
  ⟨0x09#8, .ora, .imm, 2, 2, .no, .byte .oraImm⟩,
  ⟨0x0A#8, .asl, .acc, 1, 2, .no, .none .aslAcc⟩,
  ⟨0x0D#8, .ora, .abs, 3, 4, .no, .word .oraAbs⟩,
  ⟨0x0E#8, .asl, .abs, 3, 6, .no, .word .aslAbs⟩]

/-- Row 1x of the opcode map (R120), with the columns of R121. -/
def opcodeRows1 : List Row := [
  ⟨0x10#8, .bpl, .rel, 2, 2, .branch, .byte .bpl⟩,
  ⟨0x11#8, .ora, .indY, 2, 5, .yes, .byte .oraIndY⟩,
  ⟨0x15#8, .ora, .zpX, 2, 4, .no, .byte .oraZpX⟩,
  ⟨0x16#8, .asl, .zpX, 2, 6, .no, .byte .aslZpX⟩,
  ⟨0x18#8, .clc, .imp, 1, 2, .no, .none .clc⟩,
  ⟨0x19#8, .ora, .absY, 3, 4, .yes, .word .oraAbsY⟩,
  ⟨0x1D#8, .ora, .absX, 3, 4, .yes, .word .oraAbsX⟩,
  ⟨0x1E#8, .asl, .absX, 3, 7, .no, .word .aslAbsX⟩]

/-- Row 2x of the opcode map (R120), with the columns of R121. -/
def opcodeRows2 : List Row := [
  ⟨0x20#8, .jsr, .abs, 3, 6, .no, .word .jsr⟩,
  ⟨0x21#8, .and, .indX, 2, 6, .no, .byte .andIndX⟩,
  ⟨0x24#8, .bit, .zp, 2, 3, .no, .byte .bitZp⟩,
  ⟨0x25#8, .and, .zp, 2, 3, .no, .byte .andZp⟩,
  ⟨0x26#8, .rol, .zp, 2, 5, .no, .byte .rolZp⟩,
  ⟨0x28#8, .plp, .imp, 1, 4, .no, .none .plp⟩,
  ⟨0x29#8, .and, .imm, 2, 2, .no, .byte .andImm⟩,
  ⟨0x2A#8, .rol, .acc, 1, 2, .no, .none .rolAcc⟩,
  ⟨0x2C#8, .bit, .abs, 3, 4, .no, .word .bitAbs⟩,
  ⟨0x2D#8, .and, .abs, 3, 4, .no, .word .andAbs⟩,
  ⟨0x2E#8, .rol, .abs, 3, 6, .no, .word .rolAbs⟩]

/-- Row 3x of the opcode map (R120), with the columns of R121. -/
def opcodeRows3 : List Row := [
  ⟨0x30#8, .bmi, .rel, 2, 2, .branch, .byte .bmi⟩,
  ⟨0x31#8, .and, .indY, 2, 5, .yes, .byte .andIndY⟩,
  ⟨0x35#8, .and, .zpX, 2, 4, .no, .byte .andZpX⟩,
  ⟨0x36#8, .rol, .zpX, 2, 6, .no, .byte .rolZpX⟩,
  ⟨0x38#8, .sec, .imp, 1, 2, .no, .none .sec⟩,
  ⟨0x39#8, .and, .absY, 3, 4, .yes, .word .andAbsY⟩,
  ⟨0x3D#8, .and, .absX, 3, 4, .yes, .word .andAbsX⟩,
  ⟨0x3E#8, .rol, .absX, 3, 7, .no, .word .rolAbsX⟩]

/-- Row 4x of the opcode map (R120), with the columns of R121. -/
def opcodeRows4 : List Row := [
  ⟨0x40#8, .rti, .imp, 1, 6, .no, .none .rti⟩,
  ⟨0x41#8, .eor, .indX, 2, 6, .no, .byte .eorIndX⟩,
  ⟨0x45#8, .eor, .zp, 2, 3, .no, .byte .eorZp⟩,
  ⟨0x46#8, .lsr, .zp, 2, 5, .no, .byte .lsrZp⟩,
  ⟨0x48#8, .pha, .imp, 1, 3, .no, .none .pha⟩,
  ⟨0x49#8, .eor, .imm, 2, 2, .no, .byte .eorImm⟩,
  ⟨0x4A#8, .lsr, .acc, 1, 2, .no, .none .lsrAcc⟩,
  ⟨0x4C#8, .jmp, .abs, 3, 3, .no, .word .jmpAbs⟩,
  ⟨0x4D#8, .eor, .abs, 3, 4, .no, .word .eorAbs⟩,
  ⟨0x4E#8, .lsr, .abs, 3, 6, .no, .word .lsrAbs⟩]

/-- Row 5x of the opcode map (R120), with the columns of R121. -/
def opcodeRows5 : List Row := [
  ⟨0x50#8, .bvc, .rel, 2, 2, .branch, .byte .bvc⟩,
  ⟨0x51#8, .eor, .indY, 2, 5, .yes, .byte .eorIndY⟩,
  ⟨0x55#8, .eor, .zpX, 2, 4, .no, .byte .eorZpX⟩,
  ⟨0x56#8, .lsr, .zpX, 2, 6, .no, .byte .lsrZpX⟩,
  ⟨0x58#8, .cli, .imp, 1, 2, .no, .none .cli⟩,
  ⟨0x59#8, .eor, .absY, 3, 4, .yes, .word .eorAbsY⟩,
  ⟨0x5D#8, .eor, .absX, 3, 4, .yes, .word .eorAbsX⟩,
  ⟨0x5E#8, .lsr, .absX, 3, 7, .no, .word .lsrAbsX⟩]

/-- Row 6x of the opcode map (R120), with the columns of R121. -/
def opcodeRows6 : List Row := [
  ⟨0x60#8, .rts, .imp, 1, 6, .no, .none .rts⟩,
  ⟨0x61#8, .adc, .indX, 2, 6, .no, .byte .adcIndX⟩,
  ⟨0x65#8, .adc, .zp, 2, 3, .no, .byte .adcZp⟩,
  ⟨0x66#8, .ror, .zp, 2, 5, .no, .byte .rorZp⟩,
  ⟨0x68#8, .pla, .imp, 1, 4, .no, .none .pla⟩,
  ⟨0x69#8, .adc, .imm, 2, 2, .no, .byte .adcImm⟩,
  ⟨0x6A#8, .ror, .acc, 1, 2, .no, .none .rorAcc⟩,
  ⟨0x6C#8, .jmp, .ind, 3, 5, .no, .word .jmpInd⟩,
  ⟨0x6D#8, .adc, .abs, 3, 4, .no, .word .adcAbs⟩,
  ⟨0x6E#8, .ror, .abs, 3, 6, .no, .word .rorAbs⟩]

/-- Row 7x of the opcode map (R120), with the columns of R121. -/
def opcodeRows7 : List Row := [
  ⟨0x70#8, .bvs, .rel, 2, 2, .branch, .byte .bvs⟩,
  ⟨0x71#8, .adc, .indY, 2, 5, .yes, .byte .adcIndY⟩,
  ⟨0x75#8, .adc, .zpX, 2, 4, .no, .byte .adcZpX⟩,
  ⟨0x76#8, .ror, .zpX, 2, 6, .no, .byte .rorZpX⟩,
  ⟨0x78#8, .sei, .imp, 1, 2, .no, .none .sei⟩,
  ⟨0x79#8, .adc, .absY, 3, 4, .yes, .word .adcAbsY⟩,
  ⟨0x7D#8, .adc, .absX, 3, 4, .yes, .word .adcAbsX⟩,
  ⟨0x7E#8, .ror, .absX, 3, 7, .no, .word .rorAbsX⟩]

/-- Row 8x of the opcode map (R120), with the columns of R121. -/
def opcodeRows8 : List Row := [
  ⟨0x81#8, .sta, .indX, 2, 6, .no, .byte .staIndX⟩,
  ⟨0x84#8, .sty, .zp, 2, 3, .no, .byte .styZp⟩,
  ⟨0x85#8, .sta, .zp, 2, 3, .no, .byte .staZp⟩,
  ⟨0x86#8, .stx, .zp, 2, 3, .no, .byte .stxZp⟩,
  ⟨0x88#8, .dey, .imp, 1, 2, .no, .none .dey⟩,
  ⟨0x8A#8, .txa, .imp, 1, 2, .no, .none .txa⟩,
  ⟨0x8C#8, .sty, .abs, 3, 4, .no, .word .styAbs⟩,
  ⟨0x8D#8, .sta, .abs, 3, 4, .no, .word .staAbs⟩,
  ⟨0x8E#8, .stx, .abs, 3, 4, .no, .word .stxAbs⟩]

/-- Row 9x of the opcode map (R120), with the columns of R121. -/
def opcodeRows9 : List Row := [
  ⟨0x90#8, .bcc, .rel, 2, 2, .branch, .byte .bcc⟩,
  ⟨0x91#8, .sta, .indY, 2, 6, .no, .byte .staIndY⟩,
  ⟨0x94#8, .sty, .zpX, 2, 4, .no, .byte .styZpX⟩,
  ⟨0x95#8, .sta, .zpX, 2, 4, .no, .byte .staZpX⟩,
  ⟨0x96#8, .stx, .zpY, 2, 4, .no, .byte .stxZpY⟩,
  ⟨0x98#8, .tya, .imp, 1, 2, .no, .none .tya⟩,
  ⟨0x99#8, .sta, .absY, 3, 5, .no, .word .staAbsY⟩,
  ⟨0x9A#8, .txs, .imp, 1, 2, .no, .none .txs⟩,
  ⟨0x9D#8, .sta, .absX, 3, 5, .no, .word .staAbsX⟩]

/-- Row Ax of the opcode map (R120), with the columns of R121. -/
def opcodeRowsA : List Row := [
  ⟨0xA0#8, .ldy, .imm, 2, 2, .no, .byte .ldyImm⟩,
  ⟨0xA1#8, .lda, .indX, 2, 6, .no, .byte .ldaIndX⟩,
  ⟨0xA2#8, .ldx, .imm, 2, 2, .no, .byte .ldxImm⟩,
  ⟨0xA4#8, .ldy, .zp, 2, 3, .no, .byte .ldyZp⟩,
  ⟨0xA5#8, .lda, .zp, 2, 3, .no, .byte .ldaZp⟩,
  ⟨0xA6#8, .ldx, .zp, 2, 3, .no, .byte .ldxZp⟩,
  ⟨0xA8#8, .tay, .imp, 1, 2, .no, .none .tay⟩,
  ⟨0xA9#8, .lda, .imm, 2, 2, .no, .byte .ldaImm⟩,
  ⟨0xAA#8, .tax, .imp, 1, 2, .no, .none .tax⟩,
  ⟨0xAC#8, .ldy, .abs, 3, 4, .no, .word .ldyAbs⟩,
  ⟨0xAD#8, .lda, .abs, 3, 4, .no, .word .ldaAbs⟩,
  ⟨0xAE#8, .ldx, .abs, 3, 4, .no, .word .ldxAbs⟩]

/-- Row Bx of the opcode map (R120), with the columns of R121. -/
def opcodeRowsB : List Row := [
  ⟨0xB0#8, .bcs, .rel, 2, 2, .branch, .byte .bcs⟩,
  ⟨0xB1#8, .lda, .indY, 2, 5, .yes, .byte .ldaIndY⟩,
  ⟨0xB4#8, .ldy, .zpX, 2, 4, .no, .byte .ldyZpX⟩,
  ⟨0xB5#8, .lda, .zpX, 2, 4, .no, .byte .ldaZpX⟩,
  ⟨0xB6#8, .ldx, .zpY, 2, 4, .no, .byte .ldxZpY⟩,
  ⟨0xB8#8, .clv, .imp, 1, 2, .no, .none .clv⟩,
  ⟨0xB9#8, .lda, .absY, 3, 4, .yes, .word .ldaAbsY⟩,
  ⟨0xBA#8, .tsx, .imp, 1, 2, .no, .none .tsx⟩,
  ⟨0xBC#8, .ldy, .absX, 3, 4, .yes, .word .ldyAbsX⟩,
  ⟨0xBD#8, .lda, .absX, 3, 4, .yes, .word .ldaAbsX⟩,
  ⟨0xBE#8, .ldx, .absY, 3, 4, .yes, .word .ldxAbsY⟩]

/-- Row Cx of the opcode map (R120), with the columns of R121. -/
def opcodeRowsC : List Row := [
  ⟨0xC0#8, .cpy, .imm, 2, 2, .no, .byte .cpyImm⟩,
  ⟨0xC1#8, .cmp, .indX, 2, 6, .no, .byte .cmpIndX⟩,
  ⟨0xC4#8, .cpy, .zp, 2, 3, .no, .byte .cpyZp⟩,
  ⟨0xC5#8, .cmp, .zp, 2, 3, .no, .byte .cmpZp⟩,
  ⟨0xC6#8, .dec, .zp, 2, 5, .no, .byte .decZp⟩,
  ⟨0xC8#8, .iny, .imp, 1, 2, .no, .none .iny⟩,
  ⟨0xC9#8, .cmp, .imm, 2, 2, .no, .byte .cmpImm⟩,
  ⟨0xCA#8, .dex, .imp, 1, 2, .no, .none .dex⟩,
  ⟨0xCC#8, .cpy, .abs, 3, 4, .no, .word .cpyAbs⟩,
  ⟨0xCD#8, .cmp, .abs, 3, 4, .no, .word .cmpAbs⟩,
  ⟨0xCE#8, .dec, .abs, 3, 6, .no, .word .decAbs⟩]

/-- Row Dx of the opcode map (R120), with the columns of R121. -/
def opcodeRowsD : List Row := [
  ⟨0xD0#8, .bne, .rel, 2, 2, .branch, .byte .bne⟩,
  ⟨0xD1#8, .cmp, .indY, 2, 5, .yes, .byte .cmpIndY⟩,
  ⟨0xD5#8, .cmp, .zpX, 2, 4, .no, .byte .cmpZpX⟩,
  ⟨0xD6#8, .dec, .zpX, 2, 6, .no, .byte .decZpX⟩,
  ⟨0xD8#8, .cld, .imp, 1, 2, .no, .none .cld⟩,
  ⟨0xD9#8, .cmp, .absY, 3, 4, .yes, .word .cmpAbsY⟩,
  ⟨0xDD#8, .cmp, .absX, 3, 4, .yes, .word .cmpAbsX⟩,
  ⟨0xDE#8, .dec, .absX, 3, 7, .no, .word .decAbsX⟩]

/-- Row Ex of the opcode map (R120), with the columns of R121. -/
def opcodeRowsE : List Row := [
  ⟨0xE0#8, .cpx, .imm, 2, 2, .no, .byte .cpxImm⟩,
  ⟨0xE1#8, .sbc, .indX, 2, 6, .no, .byte .sbcIndX⟩,
  ⟨0xE4#8, .cpx, .zp, 2, 3, .no, .byte .cpxZp⟩,
  ⟨0xE5#8, .sbc, .zp, 2, 3, .no, .byte .sbcZp⟩,
  ⟨0xE6#8, .inc, .zp, 2, 5, .no, .byte .incZp⟩,
  ⟨0xE8#8, .inx, .imp, 1, 2, .no, .none .inx⟩,
  ⟨0xE9#8, .sbc, .imm, 2, 2, .no, .byte .sbcImm⟩,
  ⟨0xEA#8, .nop, .imp, 1, 2, .no, .none .nop⟩,
  ⟨0xEC#8, .cpx, .abs, 3, 4, .no, .word .cpxAbs⟩,
  ⟨0xED#8, .sbc, .abs, 3, 4, .no, .word .sbcAbs⟩,
  ⟨0xEE#8, .inc, .abs, 3, 6, .no, .word .incAbs⟩]

/-- Row Fx of the opcode map (R120), with the columns of R121. -/
def opcodeRowsF : List Row := [
  ⟨0xF0#8, .beq, .rel, 2, 2, .branch, .byte .beq⟩,
  ⟨0xF1#8, .sbc, .indY, 2, 5, .yes, .byte .sbcIndY⟩,
  ⟨0xF5#8, .sbc, .zpX, 2, 4, .no, .byte .sbcZpX⟩,
  ⟨0xF6#8, .inc, .zpX, 2, 6, .no, .byte .incZpX⟩,
  ⟨0xF8#8, .sed, .imp, 1, 2, .no, .none .sed⟩,
  ⟨0xF9#8, .sbc, .absY, 3, 4, .yes, .word .sbcAbsY⟩,
  ⟨0xFD#8, .sbc, .absX, 3, 4, .yes, .word .sbcAbsX⟩,
  ⟨0xFE#8, .inc, .absX, 3, 7, .no, .word .incAbsX⟩]

/-- The rows of the opcode map whose high nibble is `hi`. -/
def opcodeRows (hi : Nat) : List Row :=
  match hi with
  | 0 => opcodeRows0
  | 1 => opcodeRows1
  | 2 => opcodeRows2
  | 3 => opcodeRows3
  | 4 => opcodeRows4
  | 5 => opcodeRows5
  | 6 => opcodeRows6
  | 7 => opcodeRows7
  | 8 => opcodeRows8
  | 9 => opcodeRows9
  | 10 => opcodeRowsA
  | 11 => opcodeRowsB
  | 12 => opcodeRowsC
  | 13 => opcodeRowsD
  | 14 => opcodeRowsE
  | 15 => opcodeRowsF
  | _ => []

/-- `Descriptor(opc)` (40_core_cycle.md R143): the row of a documented opcode, none for the 105 others (R123). -/
def rowOf? (opc : Byte) : Option Row :=
  (opcodeRows (opc.toNat / 16)).find? fun r => r.opcode == opc

/-- Whether an opcode is one of the 151 documented ones (R120). -/
def documented (opc : Byte) : Bool := (rowOf? opc).isSome

/-- Instruction length from the opcode alone (R124): the bytes column, and 1 for an unknown opcode. -/
def instrLength (opc : Byte) : Nat :=
  match rowOf? opc with
  | some r => r.bytes
  | none => 1

/-- Why bytes do not decode, by name. -/
inductive DecodeReject where
  /-- The byte list is empty. -/
  | noBytes
  /-- The opcode has no descriptor (R123). -/
  | unknownOpcode (opc : Byte)
  /-- The list ends before the opcode's operand bytes (R124). -/
  | truncated (opc : Byte)
  deriving DecidableEq, Repr

/-- The instruction an opcode's row makes of the bytes after the opcode, with the bytes left over. -/
def Build.read (b : Build) (opc : Byte) (rest : List Byte) : Except DecodeReject (Instr × List Byte) :=
  match b, rest with
  | .none i, rest => .ok (i, rest)
  | .byte f, v :: rest => .ok (f v, rest)
  | .word f, lo :: hi :: rest => .ok (f (joinLE lo hi), rest)
  | .byte _, [] => .error (.truncated opc)
  | .word _, [] => .error (.truncated opc)
  | .word _, [_] => .error (.truncated opc)

/-- The decoder: the first instruction of a byte list and the rest of the list, or a rejection by name. Total. -/
def decode (bytes : List Byte) : Except DecodeReject (Instr × List Byte) :=
  match bytes with
  | [] => .error .noBytes
  | opc :: rest =>
    match rowOf? opc with
    | none => .error (.unknownOpcode opc)
    | some r => r.build.read opc rest

/-! ## The encoder, and an instruction's columns of the table -/

/-- The opcode byte of an instruction (R120). -/
def Instr.opcode (i : Instr) : Byte :=
  match i with
  | .ldaIndX _ => 0xA1#8
  | .ldaZp _ => 0xA5#8
  | .ldaImm _ => 0xA9#8
  | .ldaAbs _ => 0xAD#8
  | .ldaIndY _ => 0xB1#8
  | .ldaZpX _ => 0xB5#8
  | .ldaAbsY _ => 0xB9#8
  | .ldaAbsX _ => 0xBD#8
  | .ldxImm _ => 0xA2#8
  | .ldxZp _ => 0xA6#8
  | .ldxAbs _ => 0xAE#8
  | .ldxZpY _ => 0xB6#8
  | .ldxAbsY _ => 0xBE#8
  | .ldyImm _ => 0xA0#8
  | .ldyZp _ => 0xA4#8
  | .ldyAbs _ => 0xAC#8
  | .ldyZpX _ => 0xB4#8
  | .ldyAbsX _ => 0xBC#8
  | .staIndX _ => 0x81#8
  | .staZp _ => 0x85#8
  | .staAbs _ => 0x8D#8
  | .staIndY _ => 0x91#8
  | .staZpX _ => 0x95#8
  | .staAbsY _ => 0x99#8
  | .staAbsX _ => 0x9D#8
  | .stxZp _ => 0x86#8
  | .stxAbs _ => 0x8E#8
  | .stxZpY _ => 0x96#8
  | .styZp _ => 0x84#8
  | .styAbs _ => 0x8C#8
  | .styZpX _ => 0x94#8
  | .tax => 0xAA#8
  | .tay => 0xA8#8
  | .txa => 0x8A#8
  | .tya => 0x98#8
  | .tsx => 0xBA#8
  | .txs => 0x9A#8
  | .pha => 0x48#8
  | .php => 0x08#8
  | .pla => 0x68#8
  | .plp => 0x28#8
  | .adcIndX _ => 0x61#8
  | .adcZp _ => 0x65#8
  | .adcImm _ => 0x69#8
  | .adcAbs _ => 0x6D#8
  | .adcIndY _ => 0x71#8
  | .adcZpX _ => 0x75#8
  | .adcAbsY _ => 0x79#8
  | .adcAbsX _ => 0x7D#8
  | .sbcIndX _ => 0xE1#8
  | .sbcZp _ => 0xE5#8
  | .sbcImm _ => 0xE9#8
  | .sbcAbs _ => 0xED#8
  | .sbcIndY _ => 0xF1#8
  | .sbcZpX _ => 0xF5#8
  | .sbcAbsY _ => 0xF9#8
  | .sbcAbsX _ => 0xFD#8
  | .andIndX _ => 0x21#8
  | .andZp _ => 0x25#8
  | .andImm _ => 0x29#8
  | .andAbs _ => 0x2D#8
  | .andIndY _ => 0x31#8
  | .andZpX _ => 0x35#8
  | .andAbsY _ => 0x39#8
  | .andAbsX _ => 0x3D#8
  | .oraIndX _ => 0x01#8
  | .oraZp _ => 0x05#8
  | .oraImm _ => 0x09#8
  | .oraAbs _ => 0x0D#8
  | .oraIndY _ => 0x11#8
  | .oraZpX _ => 0x15#8
  | .oraAbsY _ => 0x19#8
  | .oraAbsX _ => 0x1D#8
  | .eorIndX _ => 0x41#8
  | .eorZp _ => 0x45#8
  | .eorImm _ => 0x49#8
  | .eorAbs _ => 0x4D#8
  | .eorIndY _ => 0x51#8
  | .eorZpX _ => 0x55#8
  | .eorAbsY _ => 0x59#8
  | .eorAbsX _ => 0x5D#8
  | .bitZp _ => 0x24#8
  | .bitAbs _ => 0x2C#8
  | .cmpIndX _ => 0xC1#8
  | .cmpZp _ => 0xC5#8
  | .cmpImm _ => 0xC9#8
  | .cmpAbs _ => 0xCD#8
  | .cmpIndY _ => 0xD1#8
  | .cmpZpX _ => 0xD5#8
  | .cmpAbsY _ => 0xD9#8
  | .cmpAbsX _ => 0xDD#8
  | .cpxImm _ => 0xE0#8
  | .cpxZp _ => 0xE4#8
  | .cpxAbs _ => 0xEC#8
  | .cpyImm _ => 0xC0#8
  | .cpyZp _ => 0xC4#8
  | .cpyAbs _ => 0xCC#8
  | .incZp _ => 0xE6#8
  | .incAbs _ => 0xEE#8
  | .incZpX _ => 0xF6#8
  | .incAbsX _ => 0xFE#8
  | .decZp _ => 0xC6#8
  | .decAbs _ => 0xCE#8
  | .decZpX _ => 0xD6#8
  | .decAbsX _ => 0xDE#8
  | .inx => 0xE8#8
  | .iny => 0xC8#8
  | .dex => 0xCA#8
  | .dey => 0x88#8
  | .aslZp _ => 0x06#8
  | .aslAcc => 0x0A#8
  | .aslAbs _ => 0x0E#8
  | .aslZpX _ => 0x16#8
  | .aslAbsX _ => 0x1E#8
  | .lsrZp _ => 0x46#8
  | .lsrAcc => 0x4A#8
  | .lsrAbs _ => 0x4E#8
  | .lsrZpX _ => 0x56#8
  | .lsrAbsX _ => 0x5E#8
  | .rolZp _ => 0x26#8
  | .rolAcc => 0x2A#8
  | .rolAbs _ => 0x2E#8
  | .rolZpX _ => 0x36#8
  | .rolAbsX _ => 0x3E#8
  | .rorZp _ => 0x66#8
  | .rorAcc => 0x6A#8
  | .rorAbs _ => 0x6E#8
  | .rorZpX _ => 0x76#8
  | .rorAbsX _ => 0x7E#8
  | .jmpAbs _ => 0x4C#8
  | .jmpInd _ => 0x6C#8
  | .jsr _ => 0x20#8
  | .rts => 0x60#8
  | .bpl _ => 0x10#8
  | .bmi _ => 0x30#8
  | .bvc _ => 0x50#8
  | .bvs _ => 0x70#8
  | .bcc _ => 0x90#8
  | .bcs _ => 0xB0#8
  | .bne _ => 0xD0#8
  | .beq _ => 0xF0#8
  | .brk => 0x00#8
  | .rti => 0x40#8
  | .clc => 0x18#8
  | .sec => 0x38#8
  | .cli => 0x58#8
  | .sei => 0x78#8
  | .cld => 0xD8#8
  | .sed => 0xF8#8
  | .clv => 0xB8#8
  | .nop => 0xEA#8

/-- The operand of an instruction whose mode has a resolver; none for implied and accumulator modes (R101, R116). -/
def Instr.operand (i : Instr) : Option Operand :=
  match i with
  | .ldaIndX zz => some (.indX zz)
  | .ldaZp zz => some (.zp zz)
  | .ldaImm n => some (.imm n)
  | .ldaAbs addr => some (.abs addr)
  | .ldaIndY zz => some (.indY zz)
  | .ldaZpX zz => some (.zpX zz)
  | .ldaAbsY addr => some (.absY addr)
  | .ldaAbsX addr => some (.absX addr)
  | .ldxImm n => some (.imm n)
  | .ldxZp zz => some (.zp zz)
  | .ldxAbs addr => some (.abs addr)
  | .ldxZpY zz => some (.zpY zz)
  | .ldxAbsY addr => some (.absY addr)
  | .ldyImm n => some (.imm n)
  | .ldyZp zz => some (.zp zz)
  | .ldyAbs addr => some (.abs addr)
  | .ldyZpX zz => some (.zpX zz)
  | .ldyAbsX addr => some (.absX addr)
  | .staIndX zz => some (.indX zz)
  | .staZp zz => some (.zp zz)
  | .staAbs addr => some (.abs addr)
  | .staIndY zz => some (.indY zz)
  | .staZpX zz => some (.zpX zz)
  | .staAbsY addr => some (.absY addr)
  | .staAbsX addr => some (.absX addr)
  | .stxZp zz => some (.zp zz)
  | .stxAbs addr => some (.abs addr)
  | .stxZpY zz => some (.zpY zz)
  | .styZp zz => some (.zp zz)
  | .styAbs addr => some (.abs addr)
  | .styZpX zz => some (.zpX zz)
  | .tax => none
  | .tay => none
  | .txa => none
  | .tya => none
  | .tsx => none
  | .txs => none
  | .pha => none
  | .php => none
  | .pla => none
  | .plp => none
  | .adcIndX zz => some (.indX zz)
  | .adcZp zz => some (.zp zz)
  | .adcImm n => some (.imm n)
  | .adcAbs addr => some (.abs addr)
  | .adcIndY zz => some (.indY zz)
  | .adcZpX zz => some (.zpX zz)
  | .adcAbsY addr => some (.absY addr)
  | .adcAbsX addr => some (.absX addr)
  | .sbcIndX zz => some (.indX zz)
  | .sbcZp zz => some (.zp zz)
  | .sbcImm n => some (.imm n)
  | .sbcAbs addr => some (.abs addr)
  | .sbcIndY zz => some (.indY zz)
  | .sbcZpX zz => some (.zpX zz)
  | .sbcAbsY addr => some (.absY addr)
  | .sbcAbsX addr => some (.absX addr)
  | .andIndX zz => some (.indX zz)
  | .andZp zz => some (.zp zz)
  | .andImm n => some (.imm n)
  | .andAbs addr => some (.abs addr)
  | .andIndY zz => some (.indY zz)
  | .andZpX zz => some (.zpX zz)
  | .andAbsY addr => some (.absY addr)
  | .andAbsX addr => some (.absX addr)
  | .oraIndX zz => some (.indX zz)
  | .oraZp zz => some (.zp zz)
  | .oraImm n => some (.imm n)
  | .oraAbs addr => some (.abs addr)
  | .oraIndY zz => some (.indY zz)
  | .oraZpX zz => some (.zpX zz)
  | .oraAbsY addr => some (.absY addr)
  | .oraAbsX addr => some (.absX addr)
  | .eorIndX zz => some (.indX zz)
  | .eorZp zz => some (.zp zz)
  | .eorImm n => some (.imm n)
  | .eorAbs addr => some (.abs addr)
  | .eorIndY zz => some (.indY zz)
  | .eorZpX zz => some (.zpX zz)
  | .eorAbsY addr => some (.absY addr)
  | .eorAbsX addr => some (.absX addr)
  | .bitZp zz => some (.zp zz)
  | .bitAbs addr => some (.abs addr)
  | .cmpIndX zz => some (.indX zz)
  | .cmpZp zz => some (.zp zz)
  | .cmpImm n => some (.imm n)
  | .cmpAbs addr => some (.abs addr)
  | .cmpIndY zz => some (.indY zz)
  | .cmpZpX zz => some (.zpX zz)
  | .cmpAbsY addr => some (.absY addr)
  | .cmpAbsX addr => some (.absX addr)
  | .cpxImm n => some (.imm n)
  | .cpxZp zz => some (.zp zz)
  | .cpxAbs addr => some (.abs addr)
  | .cpyImm n => some (.imm n)
  | .cpyZp zz => some (.zp zz)
  | .cpyAbs addr => some (.abs addr)
  | .incZp zz => some (.zp zz)
  | .incAbs addr => some (.abs addr)
  | .incZpX zz => some (.zpX zz)
  | .incAbsX addr => some (.absX addr)
  | .decZp zz => some (.zp zz)
  | .decAbs addr => some (.abs addr)
  | .decZpX zz => some (.zpX zz)
  | .decAbsX addr => some (.absX addr)
  | .inx => none
  | .iny => none
  | .dex => none
  | .dey => none
  | .aslZp zz => some (.zp zz)
  | .aslAcc => none
  | .aslAbs addr => some (.abs addr)
  | .aslZpX zz => some (.zpX zz)
  | .aslAbsX addr => some (.absX addr)
  | .lsrZp zz => some (.zp zz)
  | .lsrAcc => none
  | .lsrAbs addr => some (.abs addr)
  | .lsrZpX zz => some (.zpX zz)
  | .lsrAbsX addr => some (.absX addr)
  | .rolZp zz => some (.zp zz)
  | .rolAcc => none
  | .rolAbs addr => some (.abs addr)
  | .rolZpX zz => some (.zpX zz)
  | .rolAbsX addr => some (.absX addr)
  | .rorZp zz => some (.zp zz)
  | .rorAcc => none
  | .rorAbs addr => some (.abs addr)
  | .rorZpX zz => some (.zpX zz)
  | .rorAbsX addr => some (.absX addr)
  | .jmpAbs addr => some (.abs addr)
  | .jmpInd addr => some (.ind addr)
  | .jsr addr => some (.abs addr)
  | .rts => none
  | .bpl rr => some (.rel rr)
  | .bmi rr => some (.rel rr)
  | .bvc rr => some (.rel rr)
  | .bvs rr => some (.rel rr)
  | .bcc rr => some (.rel rr)
  | .bcs rr => some (.rel rr)
  | .bne rr => some (.rel rr)
  | .beq rr => some (.rel rr)
  | .brk => none
  | .rti => none
  | .clc => none
  | .sec => none
  | .cli => none
  | .sei => none
  | .cld => none
  | .sed => none
  | .clv => none
  | .nop => none

/-- The mnemonic of an instruction (R121). -/
def Instr.mnemonic (i : Instr) : Mnemonic :=
  match i with
  | .ldaIndX _ => .lda
  | .ldaZp _ => .lda
  | .ldaImm _ => .lda
  | .ldaAbs _ => .lda
  | .ldaIndY _ => .lda
  | .ldaZpX _ => .lda
  | .ldaAbsY _ => .lda
  | .ldaAbsX _ => .lda
  | .ldxImm _ => .ldx
  | .ldxZp _ => .ldx
  | .ldxAbs _ => .ldx
  | .ldxZpY _ => .ldx
  | .ldxAbsY _ => .ldx
  | .ldyImm _ => .ldy
  | .ldyZp _ => .ldy
  | .ldyAbs _ => .ldy
  | .ldyZpX _ => .ldy
  | .ldyAbsX _ => .ldy
  | .staIndX _ => .sta
  | .staZp _ => .sta
  | .staAbs _ => .sta
  | .staIndY _ => .sta
  | .staZpX _ => .sta
  | .staAbsY _ => .sta
  | .staAbsX _ => .sta
  | .stxZp _ => .stx
  | .stxAbs _ => .stx
  | .stxZpY _ => .stx
  | .styZp _ => .sty
  | .styAbs _ => .sty
  | .styZpX _ => .sty
  | .tax => .tax
  | .tay => .tay
  | .txa => .txa
  | .tya => .tya
  | .tsx => .tsx
  | .txs => .txs
  | .pha => .pha
  | .php => .php
  | .pla => .pla
  | .plp => .plp
  | .adcIndX _ => .adc
  | .adcZp _ => .adc
  | .adcImm _ => .adc
  | .adcAbs _ => .adc
  | .adcIndY _ => .adc
  | .adcZpX _ => .adc
  | .adcAbsY _ => .adc
  | .adcAbsX _ => .adc
  | .sbcIndX _ => .sbc
  | .sbcZp _ => .sbc
  | .sbcImm _ => .sbc
  | .sbcAbs _ => .sbc
  | .sbcIndY _ => .sbc
  | .sbcZpX _ => .sbc
  | .sbcAbsY _ => .sbc
  | .sbcAbsX _ => .sbc
  | .andIndX _ => .and
  | .andZp _ => .and
  | .andImm _ => .and
  | .andAbs _ => .and
  | .andIndY _ => .and
  | .andZpX _ => .and
  | .andAbsY _ => .and
  | .andAbsX _ => .and
  | .oraIndX _ => .ora
  | .oraZp _ => .ora
  | .oraImm _ => .ora
  | .oraAbs _ => .ora
  | .oraIndY _ => .ora
  | .oraZpX _ => .ora
  | .oraAbsY _ => .ora
  | .oraAbsX _ => .ora
  | .eorIndX _ => .eor
  | .eorZp _ => .eor
  | .eorImm _ => .eor
  | .eorAbs _ => .eor
  | .eorIndY _ => .eor
  | .eorZpX _ => .eor
  | .eorAbsY _ => .eor
  | .eorAbsX _ => .eor
  | .bitZp _ => .bit
  | .bitAbs _ => .bit
  | .cmpIndX _ => .cmp
  | .cmpZp _ => .cmp
  | .cmpImm _ => .cmp
  | .cmpAbs _ => .cmp
  | .cmpIndY _ => .cmp
  | .cmpZpX _ => .cmp
  | .cmpAbsY _ => .cmp
  | .cmpAbsX _ => .cmp
  | .cpxImm _ => .cpx
  | .cpxZp _ => .cpx
  | .cpxAbs _ => .cpx
  | .cpyImm _ => .cpy
  | .cpyZp _ => .cpy
  | .cpyAbs _ => .cpy
  | .incZp _ => .inc
  | .incAbs _ => .inc
  | .incZpX _ => .inc
  | .incAbsX _ => .inc
  | .decZp _ => .dec
  | .decAbs _ => .dec
  | .decZpX _ => .dec
  | .decAbsX _ => .dec
  | .inx => .inx
  | .iny => .iny
  | .dex => .dex
  | .dey => .dey
  | .aslZp _ => .asl
  | .aslAcc => .asl
  | .aslAbs _ => .asl
  | .aslZpX _ => .asl
  | .aslAbsX _ => .asl
  | .lsrZp _ => .lsr
  | .lsrAcc => .lsr
  | .lsrAbs _ => .lsr
  | .lsrZpX _ => .lsr
  | .lsrAbsX _ => .lsr
  | .rolZp _ => .rol
  | .rolAcc => .rol
  | .rolAbs _ => .rol
  | .rolZpX _ => .rol
  | .rolAbsX _ => .rol
  | .rorZp _ => .ror
  | .rorAcc => .ror
  | .rorAbs _ => .ror
  | .rorZpX _ => .ror
  | .rorAbsX _ => .ror
  | .jmpAbs _ => .jmp
  | .jmpInd _ => .jmp
  | .jsr _ => .jsr
  | .rts => .rts
  | .bpl _ => .bpl
  | .bmi _ => .bmi
  | .bvc _ => .bvc
  | .bvs _ => .bvs
  | .bcc _ => .bcc
  | .bcs _ => .bcs
  | .bne _ => .bne
  | .beq _ => .beq
  | .brk => .brk
  | .rti => .rti
  | .clc => .clc
  | .sec => .sec
  | .cli => .cli
  | .sei => .sei
  | .cld => .cld
  | .sed => .sed
  | .clv => .clv
  | .nop => .nop

/-- The operand bytes of a mode, low byte first (R101). -/
def Operand.bytes (o : Operand) : List Byte :=
  match o with
  | .imm b | .zp b | .zpX b | .zpY b | .indX b | .indY b | .rel b => [b]
  | .abs w | .absX w | .absY w | .ind w => [lowByte w, highByte w]

/-- The encoder: the bytes of an instruction in increasing address order (R100, R101). -/
def encode (i : Instr) : List Byte :=
  i.opcode :: match i.operand with
    | none => []
    | some o => o.bytes

/-! ## The table's word numbering -/

/-- The bytes of an instruction whose bits are `w`, bit 0 the least significant bit of the first byte, with every
bit from `nbits` up zero: three bytes, the longest instruction (R100). -/
def tableBytes (nbits w : Nat) : List Byte :=
  let v := w % 2 ^ nbits
  [BitVec.ofNat 8 v, BitVec.ofNat 8 (v / 256), BitVec.ofNat 8 (v / 65536)]

/-- The instruction the decoder reads from an instruction whose bits are `w` in the opcode table's numbering. -/
def decodeTableWord (nbits w : Nat) : Option Instr :=
  match decode (tableBytes nbits w) with
  | .ok (i, _) => some i
  | .error _ => none

end Sys2Proof
end

