-- ==== Sys2Proof/Machine/State.lean ====
section
/-! DEFINITION. The machine's state as plain data: the core (10_state.md), the bus with its devices (20_memory.md),
the launch parameters (00_scope.md R5); the reasons a step can stop; and the state right after reset. -/

namespace Sys2Proof.Machine

/-- The bytes of a storage device, as (local offset, byte) pairs: offsets strictly rising, and no entry equal to
what an unlisted offset reads as. -/
abbrev Memory := List Host.Cell

/-- The kind of a bus transaction (20_memory.md R57). -/
inductive AccessKind where
  | read | write
  deriving DecidableEq, Repr

/-- A transaction record (20_memory.md R57). `data` holds 8 or 16 bits; the record does not hold the width. -/
structure Record where
  kind : AccessKind
  address : BusAddr
  data : Word
  sequence : Nat
  deriving DecidableEq, Repr

/-- What a device is made of (20_memory.md R61 to R64). A peripheral is opaque: `unit` says which of the platform's
peripherals it is, `own` is its own storage, `before` and `after` say whether its strategy hooks are set (R60). -/
inductive DeviceBody where
  | ram (store : Memory)
  | rom (store : Memory)
  | peripheral (unit : Nat) (own : List Byte) (before after : Bool)
  deriving DecidableEq, Repr

/-- A device: base offset, fixed size, backing storage (20_memory.md R60). -/
structure Device where
  base : Nat
  size : Nat
  body : DeviceBody
  deriving DecidableEq, Repr

/-- A registered range of addresses, `first` to `first + count - 1`, and the device it was registered for
(20_memory.md R52, R53). -/
structure MapRange where
  first : Nat
  count : Nat
  dev : Nat
  deriving DecidableEq, Repr

/-- The bus (20_memory.md R51). A device id is a position in `devs`. `map` lists the registered ranges in order: an
address belongs to the first range that holds it, so that the first registration wins (R54). `order` is the spec's
list `devices`, in clock order (R56). -/
structure Bus where
  devs : List Device
  map : List MapRange
  order : List Nat
  /-- the transaction log, most recent last -/
  log : List Record
  /-- the sequence counter -/
  seq : Nat
  lastAddress : BusAddr
  lastData : Word
  deriving DecidableEq, Repr

/-- The bits of P (10_state.md R24). `u` is the unused bit 5. -/
inductive Flag where
  | c | z | i | d | b | u | v | n
  deriving DecidableEq, Repr

/-- The 8-bit registers an instruction names as operand or destination (10_state.md R21, R22). -/
inductive Reg where
  | a | x | y
  deriving DecidableEq, Repr

/-- What an unwritten read names (10_state.md R37): a register or one bit of P. -/
inductive RegName where
  | reg (r : Reg)
  | flag (f : Flag)
  deriving DecidableEq, Repr

/-- Which of A, X, Y and the bits of P have been written since reset (10_state.md R37). -/
structure Written where
  a : Bool
  x : Bool
  y : Bool
  p : Byte
  deriving DecidableEq, Repr

/-- Reasons an instruction has no meaning. No instruction of this model is refused. -/
inductive Refusal where
  /-- An arm of `exec` not modelled yet; raised by none. Safe. -/
  | notModelled (mnemonic : String)
  deriving DecidableEq, Repr

/-- The whole machine. -/
structure State where
  /-- the launch parameters, fixed for the run -/
  cfg : Config
  /-- accumulator (10_state.md R21) -/
  a : Byte
  /-- index registers (R22) -/
  x : Byte
  y : Byte
  /-- stack pointer (R23) -/
  sp : Byte
  /-- program counter (R28) -/
  pc : Word
  /-- status register (R24) -/
  p : Byte
  /-- written marks (R37) -/
  written : Written
  /-- pending cycles (R30) -/
  pending : Nat
  /-- the last opcode fetched; none before the first fetch (R31, R37) -/
  opcode : Option Byte
  /-- the last resolved value (R32) -/
  addrLatch : BusAddr
  /-- the internal data latch (R33) -/
  dataLatch : Word
  /-- the last instruction's cost; none before the first Fetch tick (R34, R37) -/
  cyclesTotal : Option Nat
  /-- sticky: an unknown opcode has been executed (40_core_cycle.md R146) -/
  unknownSeen : Bool
  bus : Bus
  /-- the model's own: how many free values have been used (log 7) -/
  draws : Nat
  deriving DecidableEq, Repr

/-- `ModelFault(reason)` (60_exceptions.md R301, R310): the step has no defined result and the run ends. Each reason
carries the machine as the fault left it: what the step did before the fault has happened, nothing after it has (R311;
log 14). -/
inductive Fault where
  /-- A short access whose second byte is past its device's end (20_memory.md R65). Raised by two-byte operand
  fetches, pointer reads, short pushes and pulls, and vector reads. Safe: the hardware gives some value. -/
  | shortPastDevice (machine : State)
  /-- A read of A, X, Y or a bit of P not written since reset, where the spec has the machine stop (10_state.md R37,
  60_exceptions.md R301, R310; 93_implementation_defined.md U1, `fault`). Raised only in a launch whose P_REG_INIT is `UNWRITTEN`; never in a run from
  `State.reset`, where every register holds a value. Safe. -/
  | unwrittenRead (r : RegName) (machine : State)
  /-- An opcode with no descriptor, under P_UNKNOWN_OPCODE = `FAULT` only (40_core_cycle.md R146). Safe. -/
  | unknownOpcode (opc : Byte) (address : Word) (machine : State)
  deriving DecidableEq, Repr

/-- Every register and flag written: `VALUES` (10_state.md R37). -/
def Written.all : Written where
  a := true
  x := true
  y := true
  p := 0xFF#8

/-- Nothing written: `UNWRITTEN` (10_state.md R37). -/
def Written.none : Written where
  a := false
  x := false
  y := false
  p := 0x00#8

/-- The machine right after `reset(bus)` (10_state.md R37, 70_reset_and_hazards.md R330, R331) on the platform of
95_test_vectors.md section 2, RAM 0x0000 to 0x7FFF then ROM 0x8000 to 0xFFFF, with no image loaded and every byte
0x00. DESIGN CHOICE (log 1: A, X, Y, P; log 2: the platform; log 3: the memory contents): unsafe. The vector read
answers 0x0000 and leaves its record in the log (R330, R331). -/
def State.reset : State where
  cfg := Config.taken
  a := 0x00#8
  x := 0x00#8
  y := 0x00#8
  sp := 0xFF#8
  pc := 0x0000#16
  p := 0x00#8
  written := Written.all
  pending := 0
  opcode := Option.none
  addrLatch := 0#17
  dataLatch := 0#16
  cyclesTotal := Option.none
  unknownSeen := false
  bus := {
    devs := [⟨0x0000, 0x8000, .ram []⟩, ⟨0x8000, 0x8000, .rom []⟩]
    map := [⟨0x0000, 0x8000, 0⟩, ⟨0x8000, 0x8000, 1⟩]
    order := [0, 1]
    log := [⟨.read, 0xFFFC#17, 0x0000#16, 0⟩]
    seq := 1
    lastAddress := 0#17
    lastData := 0#16 }
  draws := 0

end Sys2Proof.Machine
end

