-- ==== Sys2Proof/Machine/Ops.lean ====
section
/-! DEFINITION. The named operations over memory, bus and registers: register accessors with the written marks
(10_state.md R37), a device's bytes (20_memory.md R60 to R65), the four bus accesses (R66 to R69), the bus's reset
and clock (R70 to R72), the device hooks (R73), the stack primitives (42_transfer_stack.md R180 to R184), BRK entry
and the return from it (60_exceptions.md R308, R309), and an instruction's end (40_core_cycle.md R142). -/

namespace Sys2Proof.Machine

/-- A step's part: a value, or the fault that ends the step with the machine as it stood there (60_exceptions.md R310,
R311). -/
abbrev Result (α : Type) := Except Fault α

/-- The outcome of a meaning. -/
def outcome (r : Result State) : Host.Outcome State Fault Refusal :=
  match r with
  | .ok s => .next s
  | .error f => .fault f

/-- The machine as a fault left it, kept for the rest of the run (60_exceptions.md R310, R311). -/
def Fault.machine (f : Fault) : State :=
  match f with
  | .shortPastDevice m | .unwrittenRead _ m | .unknownOpcode _ _ m => m

/-! ## Storage -/

/-- What a byte nothing has set reads as. DESIGN CHOICE (log 3): unsafe for a run from `State.reset`. -/
def Memory.unlisted : Byte := 0x00#8

/-- The byte at a local offset. -/
def Memory.get : Memory → Nat → Byte
  | [], _ => Memory.unlisted
  | (k, v) :: m, off => if k = off then v else Memory.get m off

/-- Set the byte at a local offset, keeping the canonical form. -/
def Memory.set : Memory → Nat → Byte → Memory
  | [], off, v => if v = Memory.unlisted then [] else [(off, v)]
  | (k, w) :: m, off, v =>
    if off < k then
      if v = Memory.unlisted then (k, w) :: m else (off, v) :: (k, w) :: m
    else if off = k then
      if v = Memory.unlisted then m else (off, v) :: m
    else (k, w) :: Memory.set m off v

/-- Set consecutive bytes from a local offset on. -/
def Memory.setAll (m : Memory) (off : Nat) : List Byte → Memory
  | [] => m
  | v :: vs => Memory.setAll (m.set off v) (off + 1) vs

/-- Every entry's offset is at least `lo`, the offsets rise strictly, and no entry holds the unlisted value. -/
def Memory.wfFrom : Nat → Memory → Bool
  | _, [] => true
  | lo, (k, v) :: m => decide (lo ≤ k) && decide (v ≠ Memory.unlisted) && Memory.wfFrom (k + 1) m

/-- The canonical form: offsets strictly rising, no entry equal to what an unlisted offset reads as. -/
def Memory.wf (m : Memory) : Bool := Memory.wfFrom 0 m

/-- Every offset listed is below the device's size. -/
def Memory.within (m : Memory) (size : Nat) : Bool := m.all fun c => decide (c.1 < size)

/-! ## The address map and local offsets -/

/-- The id of the device an address belongs to: the first registered range that holds it (20_memory.md R54). -/
def Bus.owner (b : Bus) (a : Nat) : Option Nat :=
  (b.map.find? fun r => decide (r.first ≤ a) && decide (a < r.first + r.count)).map MapRange.dev

/-- The device an address belongs to, with its id; none for an unmapped address (20_memory.md R51). -/
def Bus.deviceAt (b : Bus) (a : BusAddr) : Option (Nat × Device) :=
  match b.owner a.toNat with
  | none => none
  | some d =>
    match b.devs[d]? with
    | none => none
    | some dev => some (d, dev)

/-- The local offset of an address, where the device's own range holds it (20_memory.md R60). -/
def Device.offset (dev : Device) (a : Nat) : Option Nat :=
  if dev.base ≤ a ∧ a < dev.base + dev.size then some (a - dev.base) else none

/-- A short at `a` fits: its second local offset, `a - base + 1`, is below the device's size (20_memory.md R65). -/
def Device.shortFits (dev : Device) (a : Nat) : Bool := decide (a + 1 < dev.base + dev.size)

/-- A short access at `a` raises no `ShortPastDevice`: unmapped, or fitting its device (20_memory.md R65, R67). -/
def Bus.shortFits (b : Bus) (a : BusAddr) : Bool :=
  match b.deviceAt a with
  | none => true
  | some (_, dev) => dev.shortFits a.toNat

/-! ## Register accessors -/

/-- The bit number of a flag in P (10_state.md R24). -/
def Flag.bit (f : Flag) : Nat :=
  match f with
  | .c => 0 | .z => 1 | .i => 2 | .d => 3 | .b => 4 | .u => 5 | .v => 6 | .n => 7

/-- The flags of P from bit 0 up. -/
def Flag.all : List Flag := [.c, .z, .i, .d, .b, .u, .v, .n]

/-- A register's contents. -/
def State.reg (s : State) (r : Reg) : Byte :=
  match r with
  | .a => s.a
  | .x => s.x
  | .y => s.y

/-- Whether a register has been written since reset (10_state.md R37). -/
def State.regWritten (s : State) (r : Reg) : Bool :=
  match r with
  | .a => s.written.a
  | .x => s.written.x
  | .y => s.written.y

/-- An instruction's read of a register: its value, or `UnwrittenRead` (10_state.md R37). -/
def readReg (r : Reg) (s : State) : Result Byte :=
  if s.regWritten r then .ok (s.reg r) else .error (.unwrittenRead (.reg r) s)

/-- Write a register and mark it written. -/
def State.setReg (s : State) (r : Reg) (v : Byte) : State :=
  match r with
  | .a => { s with a := v, written := { s.written with a := true } }
  | .x => { s with x := v, written := { s.written with x := true } }
  | .y => { s with y := v, written := { s.written with y := true } }

/-- A byte with bit `f` set to `v` and every other bit kept. -/
def setBit (p : Byte) (f : Flag) (v : Bool) : Byte :=
  if v then p ||| (1#8 <<< f.bit) else p &&& ~~~(1#8 <<< f.bit)

/-- A flag's value. -/
def State.flag (s : State) (f : Flag) : Bool := s.p.getLsbD f.bit

/-- Whether a flag has been written since reset. -/
def State.flagWritten (s : State) (f : Flag) : Bool := s.written.p.getLsbD f.bit

/-- An instruction's read of a flag: its value, or `UnwrittenRead` (10_state.md R37). -/
def readFlag (f : Flag) (s : State) : Result Bool :=
  if s.flagWritten f then .ok (s.flag f) else .error (.unwrittenRead (.flag f) s)

/-- Write one flag and mark it written. -/
def State.setFlag (s : State) (f : Flag) (v : Bool) : State :=
  { s with p := setBit s.p f v, written := { s.written with p := setBit s.written.p f true } }

/-- Write all 8 bits of P and mark them written: PLP and RTI (42_transfer_stack.md R194, 45_control.md R255). RTI writes B
and bit 5 as well (10_state.md R27), although R25 names PLP alone (log 27). -/
def State.setP (s : State) (v : Byte) : State :=
  { s with p := v, written := { s.written with p := 0xFF#8 } }

/-- The byte PHP and BRK push: P with P_PHP_MASK ORed in. The bits the mask replaces are not read; the lowest other
bit that is unwritten raises `UnwrittenRead` (10_state.md R37; log 12: which bit is named). -/
def pushedStatus (s : State) : Result Byte :=
  match Flag.all.find? fun f => !s.cfg.phpMask.getLsbD f.bit && !s.flagWritten f with
  | some f => .error (.unwrittenRead (.flag f) s)
  | none => .ok (s.p ||| s.cfg.phpMask)

def State.setPc (s : State) (v : Word) : State := { s with pc := v }

def State.setSp (s : State) (v : Byte) : State := { s with sp := v }

def State.setAddrLatch (s : State) (v : BusAddr) : State := { s with addrLatch := v }

def State.setOpcode (s : State) (v : Byte) : State := { s with opcode := some v }

/-- Use `n` free values. -/
def State.useDraws (s : State) (n : Nat) : State := { s with draws := s.draws + n }

def State.setBus (s : State) (b : Bus) : State := { s with bus := b }

/-- Replace the body of the device with id `d`. -/
def Bus.setBody (b : Bus) (d : Nat) (body : DeviceBody) : Bus :=
  match b.devs[d]? with
  | none => b
  | some dev => { b with devs := b.devs.set d { dev with body := body } }

/-- Append a record to the log and advance the sequence counter (20_memory.md R66 to R69). -/
def Bus.append (b : Bus) (kind : AccessKind) (a : BusAddr) (data : Word) : Bus :=
  { b with log := b.log ++ [⟨kind, a, data, b.seq⟩], seq := b.seq + 1 }

def State.record (s : State) (kind : AccessKind) (a : BusAddr) (data : Word) : State :=
  s.setBus (s.bus.append kind a data)

def State.setBody (s : State) (d : Nat) (body : DeviceBody) : State := s.setBus (s.bus.setBody d body)

/-! ## The four bus accesses -/

/-- A storage device's byte at the local offset of `a`; outside the device's range, a free value (log 11). -/
def storedByte (dev : Device) (m : Memory) (a : Nat) (s : State) : Byte × State :=
  match dev.offset a with
  | some off => (m.get off, s)
  | none => (Config.outOfRangeByte s.draws, s.useDraws 1)

/-- A storage device's store with the byte at the local offset of `a` set; outside the range nothing is stored. -/
def storeByte (dev : Device) (m : Memory) (a : Nat) (v : Byte) : Memory :=
  match dev.offset a with
  | some off => m.set off v
  | none => m

/-- The device's `readByte` (20_memory.md R61, R62). -/
def deviceRead8 (d : Nat) (dev : Device) (a : BusAddr) (s : State) : Byte × State :=
  match dev.body with
  | .ram m | .rom m => storedByte dev m a.toNat s
  | .peripheral u own before after =>
    let r := Config.peripheralRead8 u own a
    (r.1, s.setBody d (.peripheral u r.2 before after))

/-- The device's `readShortLE`, low byte at the offset, high byte at offset + 1 (20_memory.md R61, R62). -/
def deviceRead16 (d : Nat) (dev : Device) (a : BusAddr) (s : State) : Word × State :=
  match dev.body with
  | .ram m | .rom m =>
    let lo := storedByte dev m a.toNat s
    let hi := storedByte dev m (a.toNat + 1) lo.2
    (joinLE lo.1 hi.1, hi.2)
  | .peripheral u own before after =>
    let r := Config.peripheralRead16 u own a
    (r.1, s.setBody d (.peripheral u r.2 before after))

/-- The device's `writeByte`; a ROM discards it (20_memory.md R61, R62, R64). -/
def deviceWrite8 (d : Nat) (dev : Device) (a : BusAddr) (v : Byte) (s : State) : State :=
  match dev.body with
  | .ram m => s.setBody d (.ram (storeByte dev m a.toNat v))
  | .rom _ => s
  | .peripheral u own before after =>
    s.setBody d (.peripheral u (Config.peripheralWrite8 u own a v) before after)

/-- The device's `writeShortLE`; a ROM discards it (20_memory.md R61, R62, R64). -/
def deviceWrite16 (d : Nat) (dev : Device) (a : BusAddr) (v : Word) (s : State) : State :=
  match dev.body with
  | .ram m => s.setBody d (.ram (storeByte dev (storeByte dev m a.toNat (lowByte v)) (a.toNat + 1) (highByte v)))
  | .rom _ => s
  | .peripheral u own before after =>
    s.setBody d (.peripheral u (Config.peripheralWrite16 u own a v) before after)

/-- `MemRead(addr, 1)` (20_memory.md R66). -/
def memRead8 (a : BusAddr) (s : State) : Byte × State :=
  match s.bus.deviceAt a with
  | none => (0xFF#8, s.record .read a 0x00FF#16)
  | some (d, dev) =>
    let r := deviceRead8 d dev a s
    (r.1, r.2.record .read a (r.1.setWidth 16))

/-- `MemRead(addr, 2)` (20_memory.md R67, R65). -/
def memRead16 (a : BusAddr) (s : State) : Result (Word × State) :=
  match s.bus.deviceAt a with
  | none => .ok (0xFFFF#16, s.record .read a 0xFFFF#16)
  | some (d, dev) =>
    if dev.shortFits a.toNat then
      let r := deviceRead16 d dev a s
      .ok (r.1, r.2.record .read a r.1)
    else .error (.shortPastDevice s)

/-- `MemWrite(addr, 1, v)` (20_memory.md R68). -/
def memWrite8 (a : BusAddr) (v : Byte) (s : State) : State :=
  match s.bus.deviceAt a with
  | none => s.record .write a (v.setWidth 16)
  | some (d, dev) => (deviceWrite8 d dev a v s).record .write a (v.setWidth 16)

/-- `MemWrite(addr, 2, v)` (20_memory.md R69, R65). -/
def memWrite16 (a : BusAddr) (v : Word) (s : State) : Result State :=
  match s.bus.deviceAt a with
  | none => .ok (s.record .write a v)
  | some (d, dev) =>
    if dev.shortFits a.toNat then .ok ((deviceWrite16 d dev a v s).record .write a v)
    else .error (.shortPastDevice s)

/-! ## What an address holds, without an access -/

/-- What a byte read of an address would answer, read off the state with no access: 0xFF where nothing is mapped, the
stored byte of a RAM or ROM; none for a peripheral (opaque) or an address outside its storage device's own range. -/
def State.peek (s : State) (a : BusAddr) : Option Byte :=
  match s.bus.deviceAt a with
  | none => some 0xFF#8
  | some (_, dev) =>
    match dev.body with
    | .ram m | .rom m => (dev.offset a.toNat).map m.get
    | .peripheral _ _ _ _ => none

/-- Whether an address belongs to a RAM device, inside the device's own range. -/
def State.isRam (s : State) (a : BusAddr) : Bool :=
  match s.bus.deviceAt a with
  | none => false
  | some (_, dev) =>
    match dev.body with
    | .ram _ => (dev.offset a.toNat).isSome
    | .rom _ | .peripheral _ _ _ _ => false

/-! ## The bus's own operations -/

/-- Bus `reset()` (20_memory.md R70). -/
def busReset (s : State) : State :=
  s.setBus { s.bus with log := [], seq := 0, lastAddress := 0#17, lastData := 0#16 }

/-- What bus `clock()` returns: whether a transaction was available (20_memory.md R71, R72). -/
def busClockAvailable (s : State) : Bool := !s.bus.log.isEmpty

/-- Bus `clock()`: pop the most recent record into the shadow latch; an empty log leaves it (20_memory.md R71, R72). -/
def busClock (s : State) : State :=
  match s.bus.log.getLast? with
  | none => s
  | some r =>
    s.setBus { s.bus with log := s.bus.log.dropLast, lastAddress := r.address, lastData := r.data }

/-- The three hooks of one device in a tick (20_memory.md R73). RAM and ROM have the default no-op (R63). -/
def clockBody (latchAddr : BusAddr) (latchData : Word) (body : DeviceBody) : DeviceBody :=
  match body with
  | .ram m => .ram m
  | .rom m => .rom m
  | .peripheral u own before after =>
    let own1 := if before then Config.peripheralBeforeClock u latchAddr latchData own else own
    let own2 := Config.peripheralClock u latchAddr latchData own1
    let own3 := if after then Config.peripheralAfterClock u latchAddr latchData own2 else own2
    .peripheral u own3 before after

/-- Clock the device with id `d`. -/
def clockDevice (s : State) (d : Nat) : State :=
  match s.bus.devs[d]? with
  | none => s
  | some dev => s.setBody d (clockBody s.bus.lastAddress s.bus.lastData dev.body)

/-- Clock every registered device once, in order (20_memory.md R73). -/
def clockDevices (s : State) : State := s.bus.order.foldl clockDevice s

/-- The part of a system tick after the CPU: the bus latch, then the devices (40_core_cycle.md R147). -/
def tickTail (s : State) : State := clockDevices (busClock s)

/-! ## Costs and the end of an instruction -/

/-- P_CYCLES[opc]: the override if the launch gives one, else the base cost of the table (30_encoding.md R121). -/
def baseCost (cfg : Config) (opc : Byte) : Nat :=
  match cfg.cycleOverrides.lookup opc with
  | some c => c
  | none =>
    match rowOf? opc with
    | some r => r.cost
    | none => 0

/-- The cost of a read-type operation: one more when the page test fired (30_encoding.md R118). -/
def readCost (cfg : Config) (opc : Byte) (crossed : Bool) : Nat := baseCost cfg opc + if crossed then 1 else 0

/-- The end of `Execute` (40_core_cycle.md R142): the cost goes to `pending` and `cycles_total`. `data_latch` holds no
defined value from then on: a free value (10_state.md R33, U13; log 6). -/
def State.retire (s : State) (c : Nat) : State :=
  { s with pending := c, cyclesTotal := some c, dataLatch := Config.freeDataLatch s.draws, draws := s.draws + 1 }

/-! ## The stack -/

/-- `StackAddr(s)` (42_transfer_stack.md R180). -/
def stackAddr (cfg : Config) (sp : Byte) : BusAddr := (cfg.stackPage ++ sp : Word).setWidth 17

/-- `Push8(b)`: decrement, then write (42_transfer_stack.md R181). -/
def push8 (b : Byte) (s : State) : State :=
  memWrite8 (stackAddr s.cfg (s.sp - 1)) b (s.setSp (s.sp - 1))

/-- `Pull8q()`: read, then decrement (42_transfer_stack.md R182). -/
def pull8q (s : State) : Byte × State :=
  let r := memRead8 (stackAddr s.cfg s.sp) s
  (r.1, r.2.setSp (s.sp - 1))

/-- `Push16(w)` (42_transfer_stack.md R183). -/
def push16 (w : Word) (s : State) : Result State :=
  memWrite16 (stackAddr s.cfg (s.sp - 2)) w (s.setSp (s.sp - 2))

/-- `Pull16()` (42_transfer_stack.md R184). -/
def pull16 (s : State) : Result (Word × State) := do
  let r ← memRead16 (stackAddr s.cfg s.sp) s
  return (r.1, r.2.setSp (s.sp + 2))

/-! ## BRK's entry and the return from it -/

/-- The one trap-like entry (60_exceptions.md R308, 45_control.md R254): the return address and P | P_PHP_MASK on the
stack, I set, PC from the BRK vector. P is read first: an unwritten bit faults before the instruction's first write
(10_state.md R37; log 25). -/
def takeBreak (ret : Word) (s : State) : Result State := do
  let status ← pushedStatus s
  let s1 ← push16 ret s
  let s2 := (push8 status s1).setFlag .i true
  let v ← memRead16 (s2.cfg.brkVector.setWidth 17) s2
  return v.2.setPc v.1

/-- The return from it (60_exceptions.md R309, 45_control.md R255): P by a read and an increment of SP, then PC. -/
def returnFromBreak (s : State) : Result State := do
  let st := memRead8 (stackAddr s.cfg s.sp) s
  let s1 := (st.2.setP st.1).setSp (s.sp + 1)
  let w ← pull16 s1
  return w.2.setPc w.1

/-! ## Diagnostics -/

/-- What the host may read after a tick (40_core_cycle.md R150). -/
structure Diagnostics where
  opcode : Option Byte
  pending : Nat
  cyclesTotal : Option Nat
  addrLatch : BusAddr
  deriving DecidableEq, Repr

def State.diagnostics (s : State) : Diagnostics := ⟨s.opcode, s.pending, s.cyclesTotal, s.addrLatch⟩

end Sys2Proof.Machine
end

