-- ==== Sys2Proof/Machine/Flags.lean ====
section
/-! DEFINITION. Every flag computation: SetNZ (10_state.md R26), the carry and overflow rules of ADC and SBC
(43_arith_logic.md R200, R202), decimal draws (R201), BIT (R206), Compare (R207), and the byte functions of the
logic, increment and shift instructions with the carry they route (R203 to R205, R210, R211; 44_shift_rotate.md
R231 to R234). -/

namespace Sys2Proof.Machine

/-- `SetNZ(r8)` (10_state.md R26). -/
def State.setNZ (s : State) (r : Byte) : State := (s.setFlag .z (r == 0#8)).setFlag .n (r.getLsbD 7)

/-- A result byte with its carry and overflow. -/
structure ArithOut where
  result : Byte
  carry : Bool
  overflow : Bool
  deriving DecidableEq, Repr

/-- ADC's sum: exact over the naturals, then reduced (43_arith_logic.md R200). -/
def adcResult (a m : Byte) (c : Bool) : ArithOut :=
  let sum := a.toNat + m.toNat + c.toNat
  let r := BitVec.ofNat 8 sum
  ⟨r, decide (sum > 0xFF), (~~~(a ^^^ m) &&& (a ^^^ r)).getLsbD 7⟩

/-- SBC's difference: exact over the integers, then reduced (43_arith_logic.md R202). C = 1 means no borrow. -/
def sbcResult (a m : Byte) (c : Bool) : ArithOut :=
  let d : Int := (a.toNat : Int) - (m.toNat : Int) - (1 - (c.toNat : Int))
  let r := BitVec.ofInt 8 d
  ⟨r, decide (0 ≤ d), ((a ^^^ m) &&& (a ^^^ r)).getLsbD 7⟩

/-- Write an arithmetic result: C, V, A, then N and Z (43_arith_logic.md R200, R202). -/
def State.setArith (s : State) (o : ArithOut) : State :=
  (((s.setFlag .c o.carry).setFlag .v o.overflow).setReg .a o.result).setNZ o.result

/-- `DecimalDraw()` (43_arith_logic.md R201): A, C, Z, V and N are five independent free values. -/
def decimalDraw (s : State) : State :=
  (((((s.setReg .a (Config.draw8 s.draws)).setFlag .c (Config.drawFlag (s.draws + 1))).setFlag .z
    (Config.drawFlag (s.draws + 2))).setFlag .v (Config.drawFlag (s.draws + 3))).setFlag .n
    (Config.drawFlag (s.draws + 4))).useDraws 5

/-- BIT's flags (43_arith_logic.md R206). -/
def State.setBitTest (s : State) (a m : Byte) : State :=
  ((s.setFlag .z (a &&& m == 0#8)).setFlag .n (m.getLsbD 7)).setFlag .v (m.getLsbD 6)

/-- `Compare(r, m)` (43_arith_logic.md R207). -/
def State.setCompare (s : State) (r m : Byte) : State :=
  ((s.setFlag .c (decide (m.toNat ≤ r.toNat))).setFlag .z (r == m)).setFlag .n ((r - m).getLsbD 7)

/-- AND (43_arith_logic.md R203). -/
def andByte (a m : Byte) : Byte := a &&& m

/-- ORA (43_arith_logic.md R204). -/
def oraByte (a m : Byte) : Byte := a ||| m

/-- EOR (43_arith_logic.md R205). -/
def eorByte (a m : Byte) : Byte := a ^^^ m

/-- The increment of INC, INX and INY: modulo 256 (43_arith_logic.md R210, R212, R213). -/
def incByte (m : Byte) : Byte := m + 1

/-- The decrement of DEC, DEX and DEY: modulo 256 (43_arith_logic.md R211, R214, R215). -/
def decByte (m : Byte) : Byte := m - 1

/-- INC as a change of a byte: no carry is touched (43_arith_logic.md R210). -/
def incShift (m : Byte) (s : State) : Result (Byte × State) := .ok (incByte m, s)

/-- DEC as a change of a byte (43_arith_logic.md R211). -/
def decShift (m : Byte) (s : State) : Result (Byte × State) := .ok (decByte m, s)

/-- ASL's `Shift(m)` (44_shift_rotate.md R231). -/
def aslShift (m : Byte) (s : State) : Result (Byte × State) := .ok (m <<< 1, s.setFlag .c (m.getLsbD 7))

/-- LSR's `Shift(m)` (44_shift_rotate.md R232). -/
def lsrShift (m : Byte) (s : State) : Result (Byte × State) := .ok (m >>> 1, s.setFlag .c (m.getLsbD 0))

/-- The bit a rotate shifts in: the old carry, or the new one (P_ROTATE_CARRY_IN, 44_shift_rotate.md R233). -/
def rotateIn (cfg : Config) (old new : Bool) : Bool :=
  match cfg.rotateCarryIn with
  | .old => old
  | .new => new

/-- ROL's `Shift(m)` (44_shift_rotate.md R233). -/
def rolShift (m : Byte) (s : State) : Result (Byte × State) := do
  let c ← readFlag .c s
  let cin := rotateIn s.cfg c (m.getLsbD 7)
  return (m <<< 1 ||| (BitVec.ofBool cin).setWidth 8, s.setFlag .c (m.getLsbD 7))

/-- ROR's `Shift(m)` (44_shift_rotate.md R234). -/
def rorShift (m : Byte) (s : State) : Result (Byte × State) := do
  let c ← readFlag .c s
  let cin := rotateIn s.cfg c (m.getLsbD 0)
  return (m >>> 1 ||| (BitVec.ofBool cin).setWidth 8 <<< 7, s.setFlag .c (m.getLsbD 0))

end Sys2Proof.Machine
end

