-- ==== Sys2Proof/Machine/Operands.lean ====
section
/-! DEFINITION. The addressing-mode resolvers of 30_encoding.md R102 to R119, from the operand bytes already
consumed, the page test (R112), the operand access of operations (R117), and the branch target (45_control.md
R243). -/

namespace Sys2Proof.Machine

/-- What a resolver gives the operation (30_encoding.md R102): the resolved value, whether the page test fired, and
the state with the pointer read done and `addr_latch` written (R119). -/
structure Resolved where
  value : BusAddr
  crossed : Bool
  state : State
  deriving DecidableEq, Repr

/-- `page_crossed(a, b)` (30_encoding.md R112). -/
def pageCrossed (cfg : Config) (a b : Nat) : Bool := decide (a / cfg.pageDivisor ≠ b / cfg.pageDivisor)

/-- A zero-page base plus an index (30_encoding.md R107). -/
def zpIndexed (cfg : Config) (zz i : Byte) : BusAddr :=
  match cfg.zpIndexWrap with
  | .wrap8 => (zz + i).setWidth 17
  | .noWrap => zz.setWidth 17 + i.setWidth 17

/-- A 16-bit base plus an index (30_encoding.md R109, R113). -/
def indexed (cfg : Config) (base : Word) (i : Byte) : BusAddr :=
  match cfg.eaOverflow with
  | .wrap16 => (base + i.setWidth 16).setWidth 17
  | .float => base.setWidth 17 + i.setWidth 17

/-- `addr_latch <- v` as the resolver returns, no page test (30_encoding.md R119). -/
def resolvedAt (v : BusAddr) (s : State) : Resolved := ⟨v, false, s.setAddrLatch v⟩

/-- The end of a resolver that adds an index to a 16-bit base: the sum and the page test (30_encoding.md R109, R113). -/
def resolvedIndexed (base : Word) (i : Byte) (s : State) : Resolved :=
  let ea := indexed s.cfg base i
  ⟨ea, pageCrossed s.cfg base.toNat ea.toNat, s.setAddrLatch ea⟩

/-- `ReadPtr(p)`: one short read (30_encoding.md R110). -/
def readPtr (p : BusAddr) (s : State) : Result (Word × State) := memRead16 p s

/-- The resolver of an operand whose bytes have been consumed (30_encoding.md R105 to R115). -/
def resolve (o : Operand) (s : State) : Result Resolved :=
  match o with
  | .imm n => .ok (resolvedAt (n.setWidth 17) s)
  | .zp zz => .ok (resolvedAt (zz.setWidth 17) s)
  | .zpX zz => do
    let x ← readReg .x s
    return resolvedAt (zpIndexed s.cfg zz x) s
  | .zpY zz => do
    let y ← readReg .y s
    return resolvedAt (zpIndexed s.cfg zz y) s
  | .abs addr => .ok (resolvedAt (addr.setWidth 17) s)
  | .absX addr => do
    let x ← readReg .x s
    return resolvedIndexed addr x s
  | .absY addr => do
    let y ← readReg .y s
    return resolvedIndexed addr y s
  | .indX zz => do
    let x ← readReg .x s
    let r ← readPtr (zpIndexed s.cfg zz x) s
    return resolvedAt (r.1.setWidth 17) r.2
  | .indY zz => do
    let r ← readPtr (zz.setWidth 17) s
    let y ← readReg .y r.2
    return resolvedIndexed r.1 y r.2
  | .ind addr => do
    let r ← readPtr (addr.setWidth 17) s
    return resolvedAt (r.1.setWidth 17) r.2
  | .rel rr => .ok (resolvedAt (rr.setWidth 17) s)

/-- `operand(v)`: the value itself in immediate mode, else the byte at the effective address (30_encoding.md R117). -/
def readOperand (o : Operand) (r : Resolved) : Byte × State :=
  match o with
  | .imm _ => (r.value.setWidth 8, r.state)
  | .zp _ | .zpX _ | .zpY _ | .abs _ | .absX _ | .absY _ | .indX _ | .indY _ | .ind _ | .rel _ =>
    memRead8 r.value r.state

/-- `BranchTarget(pc, rr)` (45_control.md R243). -/
def branchTarget (cfg : Config) (pc : Word) (rr : Byte) : Word :=
  match cfg.branchMode with
  | .orZext8 => pc ||| rr.setWidth 16
  | .orSext16 => pc ||| rr.signExtend 16
  | .addSigned => pc + rr.signExtend 16

end Sys2Proof.Machine
end

