-- ==== Sys2Proof/Machine/ArithLogic.lean ====
section
/-! DEFINITION. Arithmetic, logic, compare, increment and decrement (43_arith_logic.md R200 to R215), and the
read-modify-write operation they share with the shifts (44_shift_rotate.md R230). -/

namespace Sys2Proof.Machine

/-- ADC and SBC (R200, R202): D is read first; a set D under P_DECIMAL = `DRAW` draws the results (R201). DESIGN CHOICE
(log 28): A is read before C, so where both are unwritten `UnwrittenRead` names A; the one expression `A + m + P.C` of R200
gives its reads no order. -/
def arith (f : Byte → Byte → Bool → ArithOut) (opc : Byte) (o : Operand) (s : State) : Result State := do
  let v ← resolve o s
  let m := readOperand o v
  let d ← readFlag .d m.2
  if d = true ∧ s.cfg.decimal = .draw then
    return (decimalDraw m.2).retire (readCost s.cfg opc v.crossed)
  else
    let a ← readReg .a m.2
    let c ← readFlag .c m.2
    return (m.2.setArith (f a m.1 c)).retire (readCost s.cfg opc v.crossed)

/-- AND, ORA and EOR (R203 to R205). -/
def logic (f : Byte → Byte → Byte) (opc : Byte) (o : Operand) (s : State) : Result State := do
  let v ← resolve o s
  let m := readOperand o v
  let a ← readReg .a m.2
  return ((m.2.setReg .a (f a m.1)).setNZ (f a m.1)).retire (readCost s.cfg opc v.crossed)

/-- BIT (R206). -/
def bitTest (opc : Byte) (o : Operand) (s : State) : Result State := do
  let v ← resolve o s
  let m := readOperand o v
  let a ← readReg .a m.2
  return (m.2.setBitTest a m.1).retire (baseCost s.cfg opc)

/-- CMP, CPX and CPY (R207 to R209). CPX and CPY have no mode in which the page test fires. -/
def compareReg (r : Reg) (opc : Byte) (o : Operand) (s : State) : Result State := do
  let v ← resolve o s
  let m := readOperand o v
  let b ← readReg r m.2
  return (m.2.setCompare b m.1).retire (readCost s.cfg opc v.crossed)

/-- A read-modify-write of memory (R210, R211; 44_shift_rotate.md R230): one read, then one write, then N and Z. -/
def modifyMem (f : Byte → State → Result (Byte × State)) (opc : Byte) (o : Operand) (s : State) : Result State := do
  let v ← resolve o s
  let m := memRead8 v.value v.state
  let r ← f m.1 m.2
  return ((memWrite8 v.value r.1 r.2).setNZ r.1).retire (baseCost s.cfg opc)

/-- INX, INY, DEX and DEY (R212 to R215). -/
def bumpReg (r : Reg) (f : Byte → Byte) (opc : Byte) (s : State) : Result State := do
  let v ← readReg r s
  return ((s.setReg r (f v)).setNZ (f v)).retire (baseCost s.cfg opc)

/-- ADC (zp,X), 0x61 (R200). -/
def execAdcIndX (zz : Byte) (s : State) : Host.Outcome State Fault Refusal :=
  outcome (arith adcResult 0x61#8 (.indX zz) s)

/-- ADC zp, 0x65 (R200). -/
def execAdcZp (zz : Byte) (s : State) : Host.Outcome State Fault Refusal :=
  outcome (arith adcResult 0x65#8 (.zp zz) s)

/-- ADC #n, 0x69 (R200). -/
def execAdcImm (n : Byte) (s : State) : Host.Outcome State Fault Refusal :=
  outcome (arith adcResult 0x69#8 (.imm n) s)

/-- ADC abs, 0x6D (R200). -/
def execAdcAbs (addr : Word) (s : State) : Host.Outcome State Fault Refusal :=
  outcome (arith adcResult 0x6D#8 (.abs addr) s)

/-- ADC (zp),Y, 0x71 (R200). -/
def execAdcIndY (zz : Byte) (s : State) : Host.Outcome State Fault Refusal :=
  outcome (arith adcResult 0x71#8 (.indY zz) s)

/-- ADC zp,X, 0x75 (R200). -/
def execAdcZpX (zz : Byte) (s : State) : Host.Outcome State Fault Refusal :=
  outcome (arith adcResult 0x75#8 (.zpX zz) s)

/-- ADC abs,Y, 0x79 (R200). -/
def execAdcAbsY (addr : Word) (s : State) : Host.Outcome State Fault Refusal :=
  outcome (arith adcResult 0x79#8 (.absY addr) s)

/-- ADC abs,X, 0x7D (R200). -/
def execAdcAbsX (addr : Word) (s : State) : Host.Outcome State Fault Refusal :=
  outcome (arith adcResult 0x7D#8 (.absX addr) s)

/-- SBC (zp,X), 0xE1 (R202). -/
def execSbcIndX (zz : Byte) (s : State) : Host.Outcome State Fault Refusal :=
  outcome (arith sbcResult 0xE1#8 (.indX zz) s)

/-- SBC zp, 0xE5 (R202). -/
def execSbcZp (zz : Byte) (s : State) : Host.Outcome State Fault Refusal :=
  outcome (arith sbcResult 0xE5#8 (.zp zz) s)

/-- SBC #n, 0xE9 (R202). -/
def execSbcImm (n : Byte) (s : State) : Host.Outcome State Fault Refusal :=
  outcome (arith sbcResult 0xE9#8 (.imm n) s)

/-- SBC abs, 0xED (R202). -/
def execSbcAbs (addr : Word) (s : State) : Host.Outcome State Fault Refusal :=
  outcome (arith sbcResult 0xED#8 (.abs addr) s)

/-- SBC (zp),Y, 0xF1 (R202). -/
def execSbcIndY (zz : Byte) (s : State) : Host.Outcome State Fault Refusal :=
  outcome (arith sbcResult 0xF1#8 (.indY zz) s)

/-- SBC zp,X, 0xF5 (R202). -/
def execSbcZpX (zz : Byte) (s : State) : Host.Outcome State Fault Refusal :=
  outcome (arith sbcResult 0xF5#8 (.zpX zz) s)

/-- SBC abs,Y, 0xF9 (R202). -/
def execSbcAbsY (addr : Word) (s : State) : Host.Outcome State Fault Refusal :=
  outcome (arith sbcResult 0xF9#8 (.absY addr) s)

/-- SBC abs,X, 0xFD (R202). -/
def execSbcAbsX (addr : Word) (s : State) : Host.Outcome State Fault Refusal :=
  outcome (arith sbcResult 0xFD#8 (.absX addr) s)

/-- AND (zp,X), 0x21 (R203). -/
def execAndIndX (zz : Byte) (s : State) : Host.Outcome State Fault Refusal :=
  outcome (logic andByte 0x21#8 (.indX zz) s)

/-- AND zp, 0x25 (R203). -/
def execAndZp (zz : Byte) (s : State) : Host.Outcome State Fault Refusal :=
  outcome (logic andByte 0x25#8 (.zp zz) s)

/-- AND #n, 0x29 (R203). -/
def execAndImm (n : Byte) (s : State) : Host.Outcome State Fault Refusal :=
  outcome (logic andByte 0x29#8 (.imm n) s)

/-- AND abs, 0x2D (R203). -/
def execAndAbs (addr : Word) (s : State) : Host.Outcome State Fault Refusal :=
  outcome (logic andByte 0x2D#8 (.abs addr) s)

/-- AND (zp),Y, 0x31 (R203). -/
def execAndIndY (zz : Byte) (s : State) : Host.Outcome State Fault Refusal :=
  outcome (logic andByte 0x31#8 (.indY zz) s)

/-- AND zp,X, 0x35 (R203). -/
def execAndZpX (zz : Byte) (s : State) : Host.Outcome State Fault Refusal :=
  outcome (logic andByte 0x35#8 (.zpX zz) s)

/-- AND abs,Y, 0x39 (R203). -/
def execAndAbsY (addr : Word) (s : State) : Host.Outcome State Fault Refusal :=
  outcome (logic andByte 0x39#8 (.absY addr) s)

/-- AND abs,X, 0x3D (R203). -/
def execAndAbsX (addr : Word) (s : State) : Host.Outcome State Fault Refusal :=
  outcome (logic andByte 0x3D#8 (.absX addr) s)

/-- ORA (zp,X), 0x01 (R204). -/
def execOraIndX (zz : Byte) (s : State) : Host.Outcome State Fault Refusal :=
  outcome (logic oraByte 0x01#8 (.indX zz) s)

/-- ORA zp, 0x05 (R204). -/
def execOraZp (zz : Byte) (s : State) : Host.Outcome State Fault Refusal :=
  outcome (logic oraByte 0x05#8 (.zp zz) s)

/-- ORA #n, 0x09 (R204). -/
def execOraImm (n : Byte) (s : State) : Host.Outcome State Fault Refusal :=
  outcome (logic oraByte 0x09#8 (.imm n) s)

/-- ORA abs, 0x0D (R204). -/
def execOraAbs (addr : Word) (s : State) : Host.Outcome State Fault Refusal :=
  outcome (logic oraByte 0x0D#8 (.abs addr) s)

/-- ORA (zp),Y, 0x11 (R204). -/
def execOraIndY (zz : Byte) (s : State) : Host.Outcome State Fault Refusal :=
  outcome (logic oraByte 0x11#8 (.indY zz) s)

/-- ORA zp,X, 0x15 (R204). -/
def execOraZpX (zz : Byte) (s : State) : Host.Outcome State Fault Refusal :=
  outcome (logic oraByte 0x15#8 (.zpX zz) s)

/-- ORA abs,Y, 0x19 (R204). -/
def execOraAbsY (addr : Word) (s : State) : Host.Outcome State Fault Refusal :=
  outcome (logic oraByte 0x19#8 (.absY addr) s)

/-- ORA abs,X, 0x1D (R204). -/
def execOraAbsX (addr : Word) (s : State) : Host.Outcome State Fault Refusal :=
  outcome (logic oraByte 0x1D#8 (.absX addr) s)

/-- EOR (zp,X), 0x41 (R205). -/
def execEorIndX (zz : Byte) (s : State) : Host.Outcome State Fault Refusal :=
  outcome (logic eorByte 0x41#8 (.indX zz) s)

/-- EOR zp, 0x45 (R205). -/
def execEorZp (zz : Byte) (s : State) : Host.Outcome State Fault Refusal :=
  outcome (logic eorByte 0x45#8 (.zp zz) s)

/-- EOR #n, 0x49 (R205). -/
def execEorImm (n : Byte) (s : State) : Host.Outcome State Fault Refusal :=
  outcome (logic eorByte 0x49#8 (.imm n) s)

/-- EOR abs, 0x4D (R205). -/
def execEorAbs (addr : Word) (s : State) : Host.Outcome State Fault Refusal :=
  outcome (logic eorByte 0x4D#8 (.abs addr) s)

/-- EOR (zp),Y, 0x51 (R205). -/
def execEorIndY (zz : Byte) (s : State) : Host.Outcome State Fault Refusal :=
  outcome (logic eorByte 0x51#8 (.indY zz) s)

/-- EOR zp,X, 0x55 (R205). -/
def execEorZpX (zz : Byte) (s : State) : Host.Outcome State Fault Refusal :=
  outcome (logic eorByte 0x55#8 (.zpX zz) s)

/-- EOR abs,Y, 0x59 (R205). -/
def execEorAbsY (addr : Word) (s : State) : Host.Outcome State Fault Refusal :=
  outcome (logic eorByte 0x59#8 (.absY addr) s)

/-- EOR abs,X, 0x5D (R205). -/
def execEorAbsX (addr : Word) (s : State) : Host.Outcome State Fault Refusal :=
  outcome (logic eorByte 0x5D#8 (.absX addr) s)

/-- BIT zp, 0x24 (R206). -/
def execBitZp (zz : Byte) (s : State) : Host.Outcome State Fault Refusal :=
  outcome (bitTest 0x24#8 (.zp zz) s)

/-- BIT abs, 0x2C (R206). -/
def execBitAbs (addr : Word) (s : State) : Host.Outcome State Fault Refusal :=
  outcome (bitTest 0x2C#8 (.abs addr) s)

/-- CMP (zp,X), 0xC1 (R207). -/
def execCmpIndX (zz : Byte) (s : State) : Host.Outcome State Fault Refusal :=
  outcome (compareReg .a 0xC1#8 (.indX zz) s)

/-- CMP zp, 0xC5 (R207). -/
def execCmpZp (zz : Byte) (s : State) : Host.Outcome State Fault Refusal :=
  outcome (compareReg .a 0xC5#8 (.zp zz) s)

/-- CMP #n, 0xC9 (R207). -/
def execCmpImm (n : Byte) (s : State) : Host.Outcome State Fault Refusal :=
  outcome (compareReg .a 0xC9#8 (.imm n) s)

/-- CMP abs, 0xCD (R207). -/
def execCmpAbs (addr : Word) (s : State) : Host.Outcome State Fault Refusal :=
  outcome (compareReg .a 0xCD#8 (.abs addr) s)

/-- CMP (zp),Y, 0xD1 (R207). -/
def execCmpIndY (zz : Byte) (s : State) : Host.Outcome State Fault Refusal :=
  outcome (compareReg .a 0xD1#8 (.indY zz) s)

/-- CMP zp,X, 0xD5 (R207). -/
def execCmpZpX (zz : Byte) (s : State) : Host.Outcome State Fault Refusal :=
  outcome (compareReg .a 0xD5#8 (.zpX zz) s)

/-- CMP abs,Y, 0xD9 (R207). -/
def execCmpAbsY (addr : Word) (s : State) : Host.Outcome State Fault Refusal :=
  outcome (compareReg .a 0xD9#8 (.absY addr) s)

/-- CMP abs,X, 0xDD (R207). -/
def execCmpAbsX (addr : Word) (s : State) : Host.Outcome State Fault Refusal :=
  outcome (compareReg .a 0xDD#8 (.absX addr) s)

/-- CPX #n, 0xE0 (R208). -/
def execCpxImm (n : Byte) (s : State) : Host.Outcome State Fault Refusal :=
  outcome (compareReg .x 0xE0#8 (.imm n) s)

/-- CPX zp, 0xE4 (R208). -/
def execCpxZp (zz : Byte) (s : State) : Host.Outcome State Fault Refusal :=
  outcome (compareReg .x 0xE4#8 (.zp zz) s)

/-- CPX abs, 0xEC (R208). -/
def execCpxAbs (addr : Word) (s : State) : Host.Outcome State Fault Refusal :=
  outcome (compareReg .x 0xEC#8 (.abs addr) s)

/-- CPY #n, 0xC0 (R209). -/
def execCpyImm (n : Byte) (s : State) : Host.Outcome State Fault Refusal :=
  outcome (compareReg .y 0xC0#8 (.imm n) s)

/-- CPY zp, 0xC4 (R209). -/
def execCpyZp (zz : Byte) (s : State) : Host.Outcome State Fault Refusal :=
  outcome (compareReg .y 0xC4#8 (.zp zz) s)

/-- CPY abs, 0xCC (R209). -/
def execCpyAbs (addr : Word) (s : State) : Host.Outcome State Fault Refusal :=
  outcome (compareReg .y 0xCC#8 (.abs addr) s)

/-- INC zp, 0xE6 (R210). -/
def execIncZp (zz : Byte) (s : State) : Host.Outcome State Fault Refusal :=
  outcome (modifyMem incShift 0xE6#8 (.zp zz) s)

/-- INC abs, 0xEE (R210). -/
def execIncAbs (addr : Word) (s : State) : Host.Outcome State Fault Refusal :=
  outcome (modifyMem incShift 0xEE#8 (.abs addr) s)

/-- INC zp,X, 0xF6 (R210). -/
def execIncZpX (zz : Byte) (s : State) : Host.Outcome State Fault Refusal :=
  outcome (modifyMem incShift 0xF6#8 (.zpX zz) s)

/-- INC abs,X, 0xFE (R210). -/
def execIncAbsX (addr : Word) (s : State) : Host.Outcome State Fault Refusal :=
  outcome (modifyMem incShift 0xFE#8 (.absX addr) s)

/-- DEC zp, 0xC6 (R211). -/
def execDecZp (zz : Byte) (s : State) : Host.Outcome State Fault Refusal :=
  outcome (modifyMem decShift 0xC6#8 (.zp zz) s)

/-- DEC abs, 0xCE (R211). -/
def execDecAbs (addr : Word) (s : State) : Host.Outcome State Fault Refusal :=
  outcome (modifyMem decShift 0xCE#8 (.abs addr) s)

/-- DEC zp,X, 0xD6 (R211). -/
def execDecZpX (zz : Byte) (s : State) : Host.Outcome State Fault Refusal :=
  outcome (modifyMem decShift 0xD6#8 (.zpX zz) s)

/-- DEC abs,X, 0xDE (R211). -/
def execDecAbsX (addr : Word) (s : State) : Host.Outcome State Fault Refusal :=
  outcome (modifyMem decShift 0xDE#8 (.absX addr) s)

/-- INX, 0xE8 (R212). -/
def execInx (s : State) : Host.Outcome State Fault Refusal :=
  outcome (bumpReg .x incByte 0xE8#8 s)

/-- INY, 0xC8 (R213). -/
def execIny (s : State) : Host.Outcome State Fault Refusal :=
  outcome (bumpReg .y incByte 0xC8#8 s)

/-- DEX, 0xCA (R214). -/
def execDex (s : State) : Host.Outcome State Fault Refusal :=
  outcome (bumpReg .x decByte 0xCA#8 s)

/-- DEY, 0x88 (R215). -/
def execDey (s : State) : Host.Outcome State Fault Refusal :=
  outcome (bumpReg .y decByte 0x88#8 s)

end Sys2Proof.Machine
end

