-- ==== Sys2Proof/Machine/Control.lean ====
section
/-! DEFINITION. Jumps, subroutines, branches, BRK and RTI (45_control.md R240 to R255). -/

namespace Sys2Proof.Machine

/-- JMP (R240): the target is the resolved value. -/
def jump (opc : Byte) (o : Operand) (s : State) : Result State := do
  let v ← resolve o s
  return (v.state.setPc (v.value.setWidth 16)).retire (baseCost s.cfg opc)

/-- JSR (R241). -/
def jumpSubroutine (opc : Byte) (o : Operand) (s : State) : Result State := do
  let v ← resolve o s
  let s1 ← push16 (v.state.pc - s.cfg.jsrRetBias) v.state
  return (s1.setPc (v.value.setWidth 16)).retire (baseCost s.cfg opc)

/-- RTS (R242). -/
def returnSubroutine (opc : Byte) (s : State) : Result State := do
  let w ← pull16 s
  return (w.2.setPc (w.1 + s.cfg.jsrRetBias)).retire (baseCost s.cfg opc)

/-- The eight branches (R244, R245): taken when flag `f` reads `on`. The costs 2, 3 and 4 are the source's own. -/
def branch (f : Flag) (on : Bool) (o : Operand) (s : State) : Result State := do
  let v ← resolve o s
  let b ← readFlag f v.state
  if b = on then
    let t := branchTarget s.cfg v.state.pc (v.value.setWidth 8)
    let c := 3 + if pageCrossed s.cfg v.state.pc.toNat t.toNat then 1 else 0
    return (v.state.setPc t).retire c
  else
    return v.state.retire 2

/-- BRK (R254): the return address skips the padding byte. -/
def breakEntry (opc : Byte) (s : State) : Result State := do
  let s1 ← takeBreak (s.pc + 1) s
  return s1.retire (baseCost s.cfg opc)

/-- RTI (R255). -/
def returnInterrupt (opc : Byte) (s : State) : Result State := do
  let s1 ← returnFromBreak s
  return s1.retire (baseCost s.cfg opc)

/-- JMP abs, 0x4C (R240). -/
def execJmpAbs (addr : Word) (s : State) : Host.Outcome State Fault Refusal :=
  outcome (jump 0x4C#8 (.abs addr) s)

/-- JMP (abs), 0x6C (R240). -/
def execJmpInd (addr : Word) (s : State) : Host.Outcome State Fault Refusal :=
  outcome (jump 0x6C#8 (.ind addr) s)

/-- JSR abs, 0x20 (R241). -/
def execJsr (addr : Word) (s : State) : Host.Outcome State Fault Refusal :=
  outcome (jumpSubroutine 0x20#8 (.abs addr) s)

/-- RTS, 0x60 (R242). -/
def execRts (s : State) : Host.Outcome State Fault Refusal :=
  outcome (returnSubroutine 0x60#8 s)

/-- BPL rel, 0x10 (R246). -/
def execBpl (rr : Byte) (s : State) : Host.Outcome State Fault Refusal :=
  outcome (branch .n false (.rel rr) s)

/-- BMI rel, 0x30 (R247). -/
def execBmi (rr : Byte) (s : State) : Host.Outcome State Fault Refusal :=
  outcome (branch .n true (.rel rr) s)

/-- BVC rel, 0x50 (R248). -/
def execBvc (rr : Byte) (s : State) : Host.Outcome State Fault Refusal :=
  outcome (branch .v false (.rel rr) s)

/-- BVS rel, 0x70 (R249). -/
def execBvs (rr : Byte) (s : State) : Host.Outcome State Fault Refusal :=
  outcome (branch .v true (.rel rr) s)

/-- BCC rel, 0x90 (R250). -/
def execBcc (rr : Byte) (s : State) : Host.Outcome State Fault Refusal :=
  outcome (branch .c false (.rel rr) s)

/-- BCS rel, 0xB0 (R251). -/
def execBcs (rr : Byte) (s : State) : Host.Outcome State Fault Refusal :=
  outcome (branch .c true (.rel rr) s)

/-- BNE rel, 0xD0 (R252). -/
def execBne (rr : Byte) (s : State) : Host.Outcome State Fault Refusal :=
  outcome (branch .z false (.rel rr) s)

/-- BEQ rel, 0xF0 (R253). -/
def execBeq (rr : Byte) (s : State) : Host.Outcome State Fault Refusal :=
  outcome (branch .z true (.rel rr) s)

/-- BRK, 0x00 (R254). -/
def execBrk (s : State) : Host.Outcome State Fault Refusal :=
  outcome (breakEntry 0x00#8 s)

/-- RTI, 0x40 (R255). -/
def execRti (s : State) : Host.Outcome State Fault Refusal :=
  outcome (returnInterrupt 0x40#8 s)

end Sys2Proof.Machine
end

