-- ==== Sys2Proof/Machine/FlagMisc.lean ====
section
/-! DEFINITION. Flag instructions and NOP (46_flags_misc.md R270 to R277). -/

namespace Sys2Proof.Machine

/-- CLC, SEC, CLI, SEI, CLD, SED and CLV (R270 to R276): one flag, no other effect. -/
def assignFlag (f : Flag) (v : Bool) (opc : Byte) (s : State) : Result State :=
  .ok ((s.setFlag f v).retire (baseCost s.cfg opc))

/-- NOP (R277). -/
def noOperation (opc : Byte) (s : State) : Result State := .ok (s.retire (baseCost s.cfg opc))

/-- CLC, 0x18 (R270). -/
def execClc (s : State) : Host.Outcome State Fault Refusal :=
  outcome (assignFlag .c false 0x18#8 s)

/-- SEC, 0x38 (R271). -/
def execSec (s : State) : Host.Outcome State Fault Refusal :=
  outcome (assignFlag .c true 0x38#8 s)

/-- CLI, 0x58 (R272). -/
def execCli (s : State) : Host.Outcome State Fault Refusal :=
  outcome (assignFlag .i false 0x58#8 s)

/-- SEI, 0x78 (R273). -/
def execSei (s : State) : Host.Outcome State Fault Refusal :=
  outcome (assignFlag .i true 0x78#8 s)

/-- CLD, 0xD8 (R274). -/
def execCld (s : State) : Host.Outcome State Fault Refusal :=
  outcome (assignFlag .d false 0xD8#8 s)

/-- SED, 0xF8 (R275). -/
def execSed (s : State) : Host.Outcome State Fault Refusal :=
  outcome (assignFlag .d true 0xF8#8 s)

/-- CLV, 0xB8 (R276). -/
def execClv (s : State) : Host.Outcome State Fault Refusal :=
  outcome (assignFlag .v false 0xB8#8 s)

/-- NOP, 0xEA (R277). -/
def execNop (s : State) : Host.Outcome State Fault Refusal :=
  outcome (noOperation 0xEA#8 s)

end Sys2Proof.Machine
end

