-- ==== Sys2Proof/Machine/LoadStore.lean ====
section
/-! DEFINITION. Loads and stores (41_load_store.md R170 to R176). -/

namespace Sys2Proof.Machine

/-- The loads (R170 to R172): the operand to register `r`, N and Z from it. -/
def load (r : Reg) (opc : Byte) (o : Operand) (s : State) : Result State := do
  let v ← resolve o s
  let m := readOperand o v
  return ((m.2.setReg r m.1).setNZ m.1).retire (readCost s.cfg opc v.crossed)

/-- The stores (R174 to R176): register `r` to the effective address; N and Z only under P_STORE_SETS_NZ (R173); a
fixed cost (30_encoding.md R118). -/
def store (r : Reg) (opc : Byte) (o : Operand) (s : State) : Result State := do
  let v ← resolve o s
  let b ← readReg r v.state
  let s1 := memWrite8 v.value b v.state
  let s2 := if s.cfg.storeSetsNZ then s1.setNZ b else s1
  return s2.retire (baseCost s.cfg opc)

/-- LDA (zp,X), 0xA1 (R170). -/
def execLdaIndX (zz : Byte) (s : State) : Host.Outcome State Fault Refusal :=
  outcome (load .a 0xA1#8 (.indX zz) s)

/-- LDA zp, 0xA5 (R170). -/
def execLdaZp (zz : Byte) (s : State) : Host.Outcome State Fault Refusal :=
  outcome (load .a 0xA5#8 (.zp zz) s)

/-- LDA #n, 0xA9 (R170). -/
def execLdaImm (n : Byte) (s : State) : Host.Outcome State Fault Refusal :=
  outcome (load .a 0xA9#8 (.imm n) s)

/-- LDA abs, 0xAD (R170). -/
def execLdaAbs (addr : Word) (s : State) : Host.Outcome State Fault Refusal :=
  outcome (load .a 0xAD#8 (.abs addr) s)

/-- LDA (zp),Y, 0xB1 (R170). -/
def execLdaIndY (zz : Byte) (s : State) : Host.Outcome State Fault Refusal :=
  outcome (load .a 0xB1#8 (.indY zz) s)

/-- LDA zp,X, 0xB5 (R170). -/
def execLdaZpX (zz : Byte) (s : State) : Host.Outcome State Fault Refusal :=
  outcome (load .a 0xB5#8 (.zpX zz) s)

/-- LDA abs,Y, 0xB9 (R170). -/
def execLdaAbsY (addr : Word) (s : State) : Host.Outcome State Fault Refusal :=
  outcome (load .a 0xB9#8 (.absY addr) s)

/-- LDA abs,X, 0xBD (R170). -/
def execLdaAbsX (addr : Word) (s : State) : Host.Outcome State Fault Refusal :=
  outcome (load .a 0xBD#8 (.absX addr) s)

/-- LDX #n, 0xA2 (R171). -/
def execLdxImm (n : Byte) (s : State) : Host.Outcome State Fault Refusal :=
  outcome (load .x 0xA2#8 (.imm n) s)

/-- LDX zp, 0xA6 (R171). -/
def execLdxZp (zz : Byte) (s : State) : Host.Outcome State Fault Refusal :=
  outcome (load .x 0xA6#8 (.zp zz) s)

/-- LDX abs, 0xAE (R171). -/
def execLdxAbs (addr : Word) (s : State) : Host.Outcome State Fault Refusal :=
  outcome (load .x 0xAE#8 (.abs addr) s)

/-- LDX zp,Y, 0xB6 (R171). -/
def execLdxZpY (zz : Byte) (s : State) : Host.Outcome State Fault Refusal :=
  outcome (load .x 0xB6#8 (.zpY zz) s)

/-- LDX abs,Y, 0xBE (R171). -/
def execLdxAbsY (addr : Word) (s : State) : Host.Outcome State Fault Refusal :=
  outcome (load .x 0xBE#8 (.absY addr) s)

/-- LDY #n, 0xA0 (R172). -/
def execLdyImm (n : Byte) (s : State) : Host.Outcome State Fault Refusal :=
  outcome (load .y 0xA0#8 (.imm n) s)

/-- LDY zp, 0xA4 (R172). -/
def execLdyZp (zz : Byte) (s : State) : Host.Outcome State Fault Refusal :=
  outcome (load .y 0xA4#8 (.zp zz) s)

/-- LDY abs, 0xAC (R172). -/
def execLdyAbs (addr : Word) (s : State) : Host.Outcome State Fault Refusal :=
  outcome (load .y 0xAC#8 (.abs addr) s)

/-- LDY zp,X, 0xB4 (R172). -/
def execLdyZpX (zz : Byte) (s : State) : Host.Outcome State Fault Refusal :=
  outcome (load .y 0xB4#8 (.zpX zz) s)

/-- LDY abs,X, 0xBC (R172). -/
def execLdyAbsX (addr : Word) (s : State) : Host.Outcome State Fault Refusal :=
  outcome (load .y 0xBC#8 (.absX addr) s)

/-- STA (zp,X), 0x81 (R174). -/
def execStaIndX (zz : Byte) (s : State) : Host.Outcome State Fault Refusal :=
  outcome (store .a 0x81#8 (.indX zz) s)

/-- STA zp, 0x85 (R174). -/
def execStaZp (zz : Byte) (s : State) : Host.Outcome State Fault Refusal :=
  outcome (store .a 0x85#8 (.zp zz) s)

/-- STA abs, 0x8D (R174). -/
def execStaAbs (addr : Word) (s : State) : Host.Outcome State Fault Refusal :=
  outcome (store .a 0x8D#8 (.abs addr) s)

/-- STA (zp),Y, 0x91 (R174). -/
def execStaIndY (zz : Byte) (s : State) : Host.Outcome State Fault Refusal :=
  outcome (store .a 0x91#8 (.indY zz) s)

/-- STA zp,X, 0x95 (R174). -/
def execStaZpX (zz : Byte) (s : State) : Host.Outcome State Fault Refusal :=
  outcome (store .a 0x95#8 (.zpX zz) s)

/-- STA abs,Y, 0x99 (R174). -/
def execStaAbsY (addr : Word) (s : State) : Host.Outcome State Fault Refusal :=
  outcome (store .a 0x99#8 (.absY addr) s)

/-- STA abs,X, 0x9D (R174). -/
def execStaAbsX (addr : Word) (s : State) : Host.Outcome State Fault Refusal :=
  outcome (store .a 0x9D#8 (.absX addr) s)

/-- STX zp, 0x86 (R175). -/
def execStxZp (zz : Byte) (s : State) : Host.Outcome State Fault Refusal :=
  outcome (store .x 0x86#8 (.zp zz) s)

/-- STX abs, 0x8E (R175). -/
def execStxAbs (addr : Word) (s : State) : Host.Outcome State Fault Refusal :=
  outcome (store .x 0x8E#8 (.abs addr) s)

/-- STX zp,Y, 0x96 (R175). -/
def execStxZpY (zz : Byte) (s : State) : Host.Outcome State Fault Refusal :=
  outcome (store .x 0x96#8 (.zpY zz) s)

/-- STY zp, 0x84 (R176). -/
def execStyZp (zz : Byte) (s : State) : Host.Outcome State Fault Refusal :=
  outcome (store .y 0x84#8 (.zp zz) s)

/-- STY abs, 0x8C (R176). -/
def execStyAbs (addr : Word) (s : State) : Host.Outcome State Fault Refusal :=
  outcome (store .y 0x8C#8 (.abs addr) s)

/-- STY zp,X, 0x94 (R176). -/
def execStyZpX (zz : Byte) (s : State) : Host.Outcome State Fault Refusal :=
  outcome (store .y 0x94#8 (.zpX zz) s)

end Sys2Proof.Machine
end

