-- ==== Sys2Proof/Machine/ShiftRotate.lean ====
section
/-! DEFINITION. Shifts and rotates (44_shift_rotate.md R230 to R234). -/

namespace Sys2Proof.Machine

/-- The accumulator form (R230): no bus access beyond the opcode fetch. -/
def modifyAcc (f : Byte → State → Result (Byte × State)) (opc : Byte) (s : State) : Result State := do
  let m ← readReg .a s
  let r ← f m s
  return ((r.2.setReg .a r.1).setNZ r.1).retire (baseCost s.cfg opc)

/-- ASL zp, 0x06 (R231). -/
def execAslZp (zz : Byte) (s : State) : Host.Outcome State Fault Refusal :=
  outcome (modifyMem aslShift 0x06#8 (.zp zz) s)

/-- ASL A, 0x0A (R231). -/
def execAslAcc (s : State) : Host.Outcome State Fault Refusal :=
  outcome (modifyAcc aslShift 0x0A#8 s)

/-- ASL abs, 0x0E (R231). -/
def execAslAbs (addr : Word) (s : State) : Host.Outcome State Fault Refusal :=
  outcome (modifyMem aslShift 0x0E#8 (.abs addr) s)

/-- ASL zp,X, 0x16 (R231). -/
def execAslZpX (zz : Byte) (s : State) : Host.Outcome State Fault Refusal :=
  outcome (modifyMem aslShift 0x16#8 (.zpX zz) s)

/-- ASL abs,X, 0x1E (R231). -/
def execAslAbsX (addr : Word) (s : State) : Host.Outcome State Fault Refusal :=
  outcome (modifyMem aslShift 0x1E#8 (.absX addr) s)

/-- LSR zp, 0x46 (R232). -/
def execLsrZp (zz : Byte) (s : State) : Host.Outcome State Fault Refusal :=
  outcome (modifyMem lsrShift 0x46#8 (.zp zz) s)

/-- LSR A, 0x4A (R232). -/
def execLsrAcc (s : State) : Host.Outcome State Fault Refusal :=
  outcome (modifyAcc lsrShift 0x4A#8 s)

/-- LSR abs, 0x4E (R232). -/
def execLsrAbs (addr : Word) (s : State) : Host.Outcome State Fault Refusal :=
  outcome (modifyMem lsrShift 0x4E#8 (.abs addr) s)

/-- LSR zp,X, 0x56 (R232). -/
def execLsrZpX (zz : Byte) (s : State) : Host.Outcome State Fault Refusal :=
  outcome (modifyMem lsrShift 0x56#8 (.zpX zz) s)

/-- LSR abs,X, 0x5E (R232). -/
def execLsrAbsX (addr : Word) (s : State) : Host.Outcome State Fault Refusal :=
  outcome (modifyMem lsrShift 0x5E#8 (.absX addr) s)

/-- ROL zp, 0x26 (R233). -/
def execRolZp (zz : Byte) (s : State) : Host.Outcome State Fault Refusal :=
  outcome (modifyMem rolShift 0x26#8 (.zp zz) s)

/-- ROL A, 0x2A (R233). -/
def execRolAcc (s : State) : Host.Outcome State Fault Refusal :=
  outcome (modifyAcc rolShift 0x2A#8 s)

/-- ROL abs, 0x2E (R233). -/
def execRolAbs (addr : Word) (s : State) : Host.Outcome State Fault Refusal :=
  outcome (modifyMem rolShift 0x2E#8 (.abs addr) s)

/-- ROL zp,X, 0x36 (R233). -/
def execRolZpX (zz : Byte) (s : State) : Host.Outcome State Fault Refusal :=
  outcome (modifyMem rolShift 0x36#8 (.zpX zz) s)

/-- ROL abs,X, 0x3E (R233). -/
def execRolAbsX (addr : Word) (s : State) : Host.Outcome State Fault Refusal :=
  outcome (modifyMem rolShift 0x3E#8 (.absX addr) s)

/-- ROR zp, 0x66 (R234). -/
def execRorZp (zz : Byte) (s : State) : Host.Outcome State Fault Refusal :=
  outcome (modifyMem rorShift 0x66#8 (.zp zz) s)

/-- ROR A, 0x6A (R234). -/
def execRorAcc (s : State) : Host.Outcome State Fault Refusal :=
  outcome (modifyAcc rorShift 0x6A#8 s)

/-- ROR abs, 0x6E (R234). -/
def execRorAbs (addr : Word) (s : State) : Host.Outcome State Fault Refusal :=
  outcome (modifyMem rorShift 0x6E#8 (.abs addr) s)

/-- ROR zp,X, 0x76 (R234). -/
def execRorZpX (zz : Byte) (s : State) : Host.Outcome State Fault Refusal :=
  outcome (modifyMem rorShift 0x76#8 (.zpX zz) s)

/-- ROR abs,X, 0x7E (R234). -/
def execRorAbsX (addr : Word) (s : State) : Host.Outcome State Fault Refusal :=
  outcome (modifyMem rorShift 0x7E#8 (.absX addr) s)

end Sys2Proof.Machine
end

