-- ==== Sys2Proof/Machine/TransferStack.lean ====
section
/-! DEFINITION. Register transfers and stack instructions (42_transfer_stack.md R185 to R194). -/

namespace Sys2Proof.Machine

/-- TAX, TAY, TXA and TYA (R185 to R188): `dst <- src`, N and Z. -/
def transfer (src dst : Reg) (opc : Byte) (s : State) : Result State := do
  let v ← readReg src s
  return ((s.setReg dst v).setNZ v).retire (baseCost s.cfg opc)

/-- TSX (R189). -/
def transferSpToX (opc : Byte) (s : State) : Result State :=
  .ok (((s.setReg .x s.sp).setNZ s.sp).retire (baseCost s.cfg opc))

/-- TXS (R190): no flag. -/
def transferXToSp (opc : Byte) (s : State) : Result State := do
  let v ← readReg .x s
  return (s.setSp v).retire (baseCost s.cfg opc)

/-- PHA (R191). -/
def pushAcc (opc : Byte) (s : State) : Result State := do
  let v ← readReg .a s
  return (push8 v s).retire (baseCost s.cfg opc)

/-- PHP (R192). -/
def pushStatus (opc : Byte) (s : State) : Result State := do
  let v ← pushedStatus s
  return (push8 v s).retire (baseCost s.cfg opc)

/-- PLA (R193). -/
def pullAcc (opc : Byte) (s : State) : Result State :=
  let m := pull8q s
  .ok (((m.2.setReg .a m.1).setNZ m.1).retire (baseCost s.cfg opc))

/-- PLP (R194): all 8 bits of P. -/
def pullStatus (opc : Byte) (s : State) : Result State :=
  let m := pull8q s
  .ok ((m.2.setP m.1).retire (baseCost s.cfg opc))

/-- TAX, 0xAA (R185). -/
def execTax (s : State) : Host.Outcome State Fault Refusal :=
  outcome (transfer .a .x 0xAA#8 s)

/-- TAY, 0xA8 (R186). -/
def execTay (s : State) : Host.Outcome State Fault Refusal :=
  outcome (transfer .a .y 0xA8#8 s)

/-- TXA, 0x8A (R187). -/
def execTxa (s : State) : Host.Outcome State Fault Refusal :=
  outcome (transfer .x .a 0x8A#8 s)

/-- TYA, 0x98 (R188). -/
def execTya (s : State) : Host.Outcome State Fault Refusal :=
  outcome (transfer .y .a 0x98#8 s)

/-- TSX, 0xBA (R189). -/
def execTsx (s : State) : Host.Outcome State Fault Refusal :=
  outcome (transferSpToX 0xBA#8 s)

/-- TXS, 0x9A (R190). -/
def execTxs (s : State) : Host.Outcome State Fault Refusal :=
  outcome (transferXToSp 0x9A#8 s)

/-- PHA, 0x48 (R191). -/
def execPha (s : State) : Host.Outcome State Fault Refusal :=
  outcome (pushAcc 0x48#8 s)

/-- PHP, 0x08 (R192). -/
def execPhp (s : State) : Host.Outcome State Fault Refusal :=
  outcome (pushStatus 0x08#8 s)

/-- PLA, 0x68 (R193). -/
def execPla (s : State) : Host.Outcome State Fault Refusal :=
  outcome (pullAcc 0x68#8 s)

/-- PLP, 0x28 (R194). -/
def execPlp (s : State) : Host.Outcome State Fault Refusal :=
  outcome (pullStatus 0x28#8 s)

end Sys2Proof.Machine
end

