-- ==== Sys2Proof/Machine/Dispatch.lean ====
section
/-! DEFINITION. The dispatch: one arm per constructor of `Instr`, each one call of that instruction's meaning.
`exec i s` runs `i` on the state after the whole instruction has been fetched: PC is the address after it
(10_state.md R28), and the log holds the opcode and operand reads (40_core_cycle.md R144). -/

namespace Sys2Proof.Machine

def exec (i : Instr) (s : State) : Host.Outcome State Fault Refusal :=
  match i with
  | .ldaIndX zz => Sys2Proof.Machine.execLdaIndX zz s
  | .ldaZp zz => Sys2Proof.Machine.execLdaZp zz s
  | .ldaImm n => Sys2Proof.Machine.execLdaImm n s
  | .ldaAbs addr => Sys2Proof.Machine.execLdaAbs addr s
  | .ldaIndY zz => Sys2Proof.Machine.execLdaIndY zz s
  | .ldaZpX zz => Sys2Proof.Machine.execLdaZpX zz s
  | .ldaAbsY addr => Sys2Proof.Machine.execLdaAbsY addr s
  | .ldaAbsX addr => Sys2Proof.Machine.execLdaAbsX addr s
  | .ldxImm n => Sys2Proof.Machine.execLdxImm n s
  | .ldxZp zz => Sys2Proof.Machine.execLdxZp zz s
  | .ldxAbs addr => Sys2Proof.Machine.execLdxAbs addr s
  | .ldxZpY zz => Sys2Proof.Machine.execLdxZpY zz s
  | .ldxAbsY addr => Sys2Proof.Machine.execLdxAbsY addr s
  | .ldyImm n => Sys2Proof.Machine.execLdyImm n s
  | .ldyZp zz => Sys2Proof.Machine.execLdyZp zz s
  | .ldyAbs addr => Sys2Proof.Machine.execLdyAbs addr s
  | .ldyZpX zz => Sys2Proof.Machine.execLdyZpX zz s
  | .ldyAbsX addr => Sys2Proof.Machine.execLdyAbsX addr s
  | .staIndX zz => Sys2Proof.Machine.execStaIndX zz s
  | .staZp zz => Sys2Proof.Machine.execStaZp zz s
  | .staAbs addr => Sys2Proof.Machine.execStaAbs addr s
  | .staIndY zz => Sys2Proof.Machine.execStaIndY zz s
  | .staZpX zz => Sys2Proof.Machine.execStaZpX zz s
  | .staAbsY addr => Sys2Proof.Machine.execStaAbsY addr s
  | .staAbsX addr => Sys2Proof.Machine.execStaAbsX addr s
  | .stxZp zz => Sys2Proof.Machine.execStxZp zz s
  | .stxAbs addr => Sys2Proof.Machine.execStxAbs addr s
  | .stxZpY zz => Sys2Proof.Machine.execStxZpY zz s
  | .styZp zz => Sys2Proof.Machine.execStyZp zz s
  | .styAbs addr => Sys2Proof.Machine.execStyAbs addr s
  | .styZpX zz => Sys2Proof.Machine.execStyZpX zz s
  | .tax => Sys2Proof.Machine.execTax s
  | .tay => Sys2Proof.Machine.execTay s
  | .txa => Sys2Proof.Machine.execTxa s
  | .tya => Sys2Proof.Machine.execTya s
  | .tsx => Sys2Proof.Machine.execTsx s
  | .txs => Sys2Proof.Machine.execTxs s
  | .pha => Sys2Proof.Machine.execPha s
  | .php => Sys2Proof.Machine.execPhp s
  | .pla => Sys2Proof.Machine.execPla s
  | .plp => Sys2Proof.Machine.execPlp s
  | .adcIndX zz => Sys2Proof.Machine.execAdcIndX zz s
  | .adcZp zz => Sys2Proof.Machine.execAdcZp zz s
  | .adcImm n => Sys2Proof.Machine.execAdcImm n s
  | .adcAbs addr => Sys2Proof.Machine.execAdcAbs addr s
  | .adcIndY zz => Sys2Proof.Machine.execAdcIndY zz s
  | .adcZpX zz => Sys2Proof.Machine.execAdcZpX zz s
  | .adcAbsY addr => Sys2Proof.Machine.execAdcAbsY addr s
  | .adcAbsX addr => Sys2Proof.Machine.execAdcAbsX addr s
  | .sbcIndX zz => Sys2Proof.Machine.execSbcIndX zz s
  | .sbcZp zz => Sys2Proof.Machine.execSbcZp zz s
  | .sbcImm n => Sys2Proof.Machine.execSbcImm n s
  | .sbcAbs addr => Sys2Proof.Machine.execSbcAbs addr s
  | .sbcIndY zz => Sys2Proof.Machine.execSbcIndY zz s
  | .sbcZpX zz => Sys2Proof.Machine.execSbcZpX zz s
  | .sbcAbsY addr => Sys2Proof.Machine.execSbcAbsY addr s
  | .sbcAbsX addr => Sys2Proof.Machine.execSbcAbsX addr s
  | .andIndX zz => Sys2Proof.Machine.execAndIndX zz s
  | .andZp zz => Sys2Proof.Machine.execAndZp zz s
  | .andImm n => Sys2Proof.Machine.execAndImm n s
  | .andAbs addr => Sys2Proof.Machine.execAndAbs addr s
  | .andIndY zz => Sys2Proof.Machine.execAndIndY zz s
  | .andZpX zz => Sys2Proof.Machine.execAndZpX zz s
  | .andAbsY addr => Sys2Proof.Machine.execAndAbsY addr s
  | .andAbsX addr => Sys2Proof.Machine.execAndAbsX addr s
  | .oraIndX zz => Sys2Proof.Machine.execOraIndX zz s
  | .oraZp zz => Sys2Proof.Machine.execOraZp zz s
  | .oraImm n => Sys2Proof.Machine.execOraImm n s
  | .oraAbs addr => Sys2Proof.Machine.execOraAbs addr s
  | .oraIndY zz => Sys2Proof.Machine.execOraIndY zz s
  | .oraZpX zz => Sys2Proof.Machine.execOraZpX zz s
  | .oraAbsY addr => Sys2Proof.Machine.execOraAbsY addr s
  | .oraAbsX addr => Sys2Proof.Machine.execOraAbsX addr s
  | .eorIndX zz => Sys2Proof.Machine.execEorIndX zz s
  | .eorZp zz => Sys2Proof.Machine.execEorZp zz s
  | .eorImm n => Sys2Proof.Machine.execEorImm n s
  | .eorAbs addr => Sys2Proof.Machine.execEorAbs addr s
  | .eorIndY zz => Sys2Proof.Machine.execEorIndY zz s
  | .eorZpX zz => Sys2Proof.Machine.execEorZpX zz s
  | .eorAbsY addr => Sys2Proof.Machine.execEorAbsY addr s
  | .eorAbsX addr => Sys2Proof.Machine.execEorAbsX addr s
  | .bitZp zz => Sys2Proof.Machine.execBitZp zz s
  | .bitAbs addr => Sys2Proof.Machine.execBitAbs addr s
  | .cmpIndX zz => Sys2Proof.Machine.execCmpIndX zz s
  | .cmpZp zz => Sys2Proof.Machine.execCmpZp zz s
  | .cmpImm n => Sys2Proof.Machine.execCmpImm n s
  | .cmpAbs addr => Sys2Proof.Machine.execCmpAbs addr s
  | .cmpIndY zz => Sys2Proof.Machine.execCmpIndY zz s
  | .cmpZpX zz => Sys2Proof.Machine.execCmpZpX zz s
  | .cmpAbsY addr => Sys2Proof.Machine.execCmpAbsY addr s
  | .cmpAbsX addr => Sys2Proof.Machine.execCmpAbsX addr s
  | .cpxImm n => Sys2Proof.Machine.execCpxImm n s
  | .cpxZp zz => Sys2Proof.Machine.execCpxZp zz s
  | .cpxAbs addr => Sys2Proof.Machine.execCpxAbs addr s
  | .cpyImm n => Sys2Proof.Machine.execCpyImm n s
  | .cpyZp zz => Sys2Proof.Machine.execCpyZp zz s
  | .cpyAbs addr => Sys2Proof.Machine.execCpyAbs addr s
  | .incZp zz => Sys2Proof.Machine.execIncZp zz s
  | .incAbs addr => Sys2Proof.Machine.execIncAbs addr s
  | .incZpX zz => Sys2Proof.Machine.execIncZpX zz s
  | .incAbsX addr => Sys2Proof.Machine.execIncAbsX addr s
  | .decZp zz => Sys2Proof.Machine.execDecZp zz s
  | .decAbs addr => Sys2Proof.Machine.execDecAbs addr s
  | .decZpX zz => Sys2Proof.Machine.execDecZpX zz s
  | .decAbsX addr => Sys2Proof.Machine.execDecAbsX addr s
  | .inx => Sys2Proof.Machine.execInx s
  | .iny => Sys2Proof.Machine.execIny s
  | .dex => Sys2Proof.Machine.execDex s
  | .dey => Sys2Proof.Machine.execDey s
  | .aslZp zz => Sys2Proof.Machine.execAslZp zz s
  | .aslAcc => Sys2Proof.Machine.execAslAcc s
  | .aslAbs addr => Sys2Proof.Machine.execAslAbs addr s
  | .aslZpX zz => Sys2Proof.Machine.execAslZpX zz s
  | .aslAbsX addr => Sys2Proof.Machine.execAslAbsX addr s
  | .lsrZp zz => Sys2Proof.Machine.execLsrZp zz s
  | .lsrAcc => Sys2Proof.Machine.execLsrAcc s
  | .lsrAbs addr => Sys2Proof.Machine.execLsrAbs addr s
  | .lsrZpX zz => Sys2Proof.Machine.execLsrZpX zz s
  | .lsrAbsX addr => Sys2Proof.Machine.execLsrAbsX addr s
  | .rolZp zz => Sys2Proof.Machine.execRolZp zz s
  | .rolAcc => Sys2Proof.Machine.execRolAcc s
  | .rolAbs addr => Sys2Proof.Machine.execRolAbs addr s
  | .rolZpX zz => Sys2Proof.Machine.execRolZpX zz s
  | .rolAbsX addr => Sys2Proof.Machine.execRolAbsX addr s
  | .rorZp zz => Sys2Proof.Machine.execRorZp zz s
  | .rorAcc => Sys2Proof.Machine.execRorAcc s
  | .rorAbs addr => Sys2Proof.Machine.execRorAbs addr s
  | .rorZpX zz => Sys2Proof.Machine.execRorZpX zz s
  | .rorAbsX addr => Sys2Proof.Machine.execRorAbsX addr s
  | .jmpAbs addr => Sys2Proof.Machine.execJmpAbs addr s
  | .jmpInd addr => Sys2Proof.Machine.execJmpInd addr s
  | .jsr addr => Sys2Proof.Machine.execJsr addr s
  | .rts => Sys2Proof.Machine.execRts s
  | .bpl rr => Sys2Proof.Machine.execBpl rr s
  | .bmi rr => Sys2Proof.Machine.execBmi rr s
  | .bvc rr => Sys2Proof.Machine.execBvc rr s
  | .bvs rr => Sys2Proof.Machine.execBvs rr s
  | .bcc rr => Sys2Proof.Machine.execBcc rr s
  | .bcs rr => Sys2Proof.Machine.execBcs rr s
  | .bne rr => Sys2Proof.Machine.execBne rr s
  | .beq rr => Sys2Proof.Machine.execBeq rr s
  | .brk => Sys2Proof.Machine.execBrk s
  | .rti => Sys2Proof.Machine.execRti s
  | .clc => Sys2Proof.Machine.execClc s
  | .sec => Sys2Proof.Machine.execSec s
  | .cli => Sys2Proof.Machine.execCli s
  | .sei => Sys2Proof.Machine.execSei s
  | .cld => Sys2Proof.Machine.execCld s
  | .sed => Sys2Proof.Machine.execSed s
  | .clv => Sys2Proof.Machine.execClv s
  | .nop => Sys2Proof.Machine.execNop s

end Sys2Proof.Machine
end

