-- ==== Sys2Proof/Machine/Fetch.lean ====
section
/-! DEFINITION. Fetching: the opcode and operand bytes through the bus (30_encoding.md R103, R104; 40_core_cycle.md
R140), an unknown opcode (R146), a Busy tick (R141), and the placing of an instruction where the next fetch reads. -/

namespace Sys2Proof.Machine

/-- PC as an address given to the bus. -/
def pcAddr (s : State) : BusAddr := s.pc.setWidth 17

/-- `Fetch8()` (30_encoding.md R103). -/
def fetch8 (s : State) : Byte × State :=
  let r := memRead8 (pcAddr s) s
  (r.1, r.2.setPc (s.pc + 1))

/-- `Fetch16()`: one short read (30_encoding.md R104). -/
def fetch16 (s : State) : Result (Word × State) := do
  let r ← memRead16 (pcAddr s) s
  return (r.1, r.2.setPc (s.pc + 2))

/-- What a fetch finds. -/
inductive Fetched where
  | instr (i : Instr) (s : State)
  | unknown (opc : Byte) (s : State)

/-- Consume the operand bytes an opcode takes and build the instruction (30_encoding.md R100 to R104). -/
def fetchOperand (b : Build) (s : State) : Result Fetched :=
  match b with
  | .none i => .ok (.instr i s)
  | .byte f => let r := fetch8 s; .ok (.instr (f r.1) r.2)
  | .word f => do
    let r ← fetch16 s
    return .instr (f r.1) r.2

/-- `Descriptor(opc)` under the launch's P_SUPPORTED (40_core_cycle.md R143, 30_encoding.md R123). -/
def descriptor (cfg : Config) (opc : Byte) : Option Row :=
  if cfg.removedOpcodes.contains opc then none else rowOf? opc

/-- A Fetch tick up to the end of the instruction's bytes (40_core_cycle.md R140): bus reset, opcode read, descriptor,
operand bytes. -/
def fetchInstr (s : State) : Result Fetched :=
  let r := fetch8 (busReset s)
  let s1 := r.2.setOpcode r.1
  match descriptor s.cfg r.1 with
  | none => .ok (.unknown r.1 s1)
  | some row => fetchOperand row.build s1

/-- `UnknownOpcode()` (40_core_cycle.md R146), PC already past the opcode. Both policies record `unknown_seen`
(60_exceptions.md R301; log 14). -/
def unknownOpcode (opc : Byte) (s : State) : Result State :=
  match s.cfg.unknownOpcode with
  | .nop => .ok { s with cyclesTotal := some 0, unknownSeen := true }
  | .fault => .error (.unknownOpcode opc (s.pc - 1) { s with unknownSeen := true })

/-- The CPU's part of a Busy tick (40_core_cycle.md R141). -/
def busyTick (s : State) : State := { s with pending := s.pending - 1 }

/-! ## Placing an instruction -/

/-- Put a byte into the device with id `d` at the local offset of `a`, RAM or ROM, with no access. -/
def placeIn (d : Nat) (a : Nat) (v : Byte) (s : State) : State :=
  match s.bus.devs[d]? with
  | none => s
  | some dev =>
    match dev.body with
    | .ram m => s.setBody d (.ram (storeByte dev m a v))
    | .rom m => s.setBody d (.rom (storeByte dev m a v))
    | .peripheral _ _ _ _ => s

/-- Put consecutive bytes where a fetch at `a` reads them: all in the device that owns `a` (20_memory.md R61). -/
def placeAt (a : BusAddr) (vs : List Byte) (s : State) : State :=
  match s.bus.owner a.toNat with
  | none => s
  | some d => (vs.zipIdx).foldl (fun t v => placeIn d (a.toNat + v.2) v.1 t) s

/-- `s` with the instruction whose bits are `w` where the next fetch reads it, and the core in the Fetch state: the
load of a program from outside the machine (log 15). The opcode is at PC, the operand bytes at PC + 1. -/
def placeInstruction (nbits w : Nat) (s : State) : State :=
  match tableBytes nbits w with
  | [] => s
  | opc :: rest =>
    let s1 := placeAt (pcAddr s) [opc] { s with pending := 0 }
    placeAt ((s.pc + 1).setWidth 17) rest s1

end Sys2Proof.Machine
end

