-- ==== Sys2Proof/Machine/Step.lean ====
section
/-! DEFINITION. One system tick (40_core_cycle.md R147): the CPU clock (R140, R141), then the bus latch, then every
device's hooks. -/

namespace Sys2Proof.Machine

/-- CPU `clock(bus)` (40_core_cycle.md R140 to R142). -/
def cpuClock (s : State) : Host.Outcome State Fault Refusal :=
  if s.pending = 0 then
    match fetchInstr s with
    | .error f => .fault f
    | .ok (.unknown opc s1) => outcome (unknownOpcode opc s1)
    | .ok (.instr i s1) => exec i s1
  else .next (busyTick s)

/-- One system tick (40_core_cycle.md R147). -/
def step (s : State) : Host.Outcome State Fault Refusal :=
  match cpuClock s with
  | .next s1 => .next (tickTail s1)
  | .fault f => .fault f
  | .refused r => .refused r

/-- `s` with an instruction of the opcode table stored where `step` fetches its next instruction, the core in the
Fetch state (log 15). -/
def State.withFetchWord (s : State) (nbits w : Nat) : State := placeInstruction nbits w s

end Sys2Proof.Machine
end

