-- ==== Sys2Proof/Machine/Assembly.lean ====
section
/-! DEFINITION. What the host does before the first tick (70_reset_and_hazards.md R333, R344): construct devices,
register them (20_memory.md R52 to R56), bulk-load ROM images (R64), and call `reset(bus)` (R330). None of these is a
move of a run: `step` never calls them (R335). -/

namespace Sys2Proof.Machine

/-- Why a configuration is refused before launch. -/
inductive ConfigError where
  /-- A registration address outside 0x0000 to 0xFFFF (20_memory.md R55). -/
  | addressOutOfRange
  /-- A bulk load of more bytes than the device holds (60_exceptions.md R306). -/
  | imageTooLarge
  /-- A bulk load into a peripheral: the spec gives a bulk load to storage devices only (20_memory.md R64). -/
  | notStorage
  /-- The device id names no constructed device. -/
  | noSuchDevice
  deriving DecidableEq, Repr

/-- The bus at power-on, before any device (20_memory.md R58). -/
def Bus.powerOn : Bus := ⟨[], [], [], [], 0, 0#17, 0#16⟩

/-- Construct a device; its id is the next position (70_reset_and_hazards.md R333 step 1). -/
def construct (dev : Device) (b : Bus) : Bus := { b with devs := b.devs ++ [dev] }

/-- A registration's result: the bus, and whether a conflict was warned of (20_memory.md R54). -/
structure Registered where
  bus : Bus
  warned : Bool
  deriving DecidableEq, Repr

/-- Whether some address of the range already has an owner (20_memory.md R54). -/
def Bus.conflicts (b : Bus) (first count : Nat) : Bool :=
  b.map.any fun r => decide (max first r.first < min (first + count) (r.first + r.count))

/-- The first address at or above `a` that no range of the map holds, found in at most `fuel` jumps. -/
def Bus.firstFree (b : Bus) : Nat → Nat → Nat
  | 0, a => a
  | fuel + 1, a =>
    match b.map.find? fun r => decide (r.first ≤ a) && decide (a < r.first + r.count) with
    | none => a
    | some r => b.firstFree fuel (r.first + r.count)

/-- Map the free addresses of a range to a device; the device joins the clock order at its first successful mapping
(20_memory.md R52 to R54, R56). An owned address keeps its owner, since the first range that holds it decides. -/
def Bus.mapRange (b : Bus) (d first count : Nat) : Bus :=
  let gained := decide (b.firstFree b.map.length first < first + count)
  { b with
    map := b.map ++ [⟨first, count, d⟩]
    order := if gained && !b.order.contains d then b.order ++ [d] else b.order }

/-- `registerAuto(baseOffset, device)` (20_memory.md R52). -/
def registerAuto (first d : Nat) (b : Bus) : Except ConfigError Registered :=
  match b.devs[d]? with
  | none => .error .noSuchDevice
  | some dev =>
    if 0x10000 < first + dev.size then .error .addressOutOfRange
    else
      let based := { b with devs := b.devs.set d { dev with base := first } }
      .ok ⟨based.mapRange d first dev.size, b.conflicts first dev.size⟩

/-- `registerAtOffset(offset, device)` (20_memory.md R53): one address; the base offset stays. -/
def registerAtOffset (a d : Nat) (b : Bus) : Except ConfigError Registered :=
  match b.devs[d]? with
  | none => .error .noSuchDevice
  | some _ =>
    if 0xFFFF < a then .error .addressOutOfRange
    else .ok ⟨b.mapRange d a 1, b.conflicts a 1⟩

/-- The whole store of a ROM of `size` bytes after a load of `image`, or with `image` empty before its first load: the
image from offset 0, and past it the launch input ROM_FILL, `fill` from offset 0 (20_memory.md R64). An offset past the
end of `fill` reads as any byte nothing has set (log 3). -/
def romContents (size : Nat) (fill image : List Byte) : Memory :=
  Memory.setAll [] 0 ((image ++ fill.drop image.length).take size)

/-- The bulk load (20_memory.md R64). A ROM's entire store is replaced: local offsets 0 to N - 1 by the image, the rest
by that ROM's ROM_FILL, whatever an earlier load left. In a RAM offsets 0 to N - 1 are set and the others keep what they
held (log 20). -/
def loadImage (fill : List Byte) (d : Nat) (image : List Byte) (b : Bus) : Except ConfigError Bus :=
  match b.devs[d]? with
  | none => .error .noSuchDevice
  | some dev =>
    if dev.size < image.length then .error .imageTooLarge
    else
      match dev.body with
      | .ram m => .ok (b.setBody d (.ram (m.setAll 0 image)))
      | .rom _ => .ok (b.setBody d (.rom (romContents dev.size fill image)))
      | .peripheral _ _ _ _ => .error .notStorage

/-- A, X, Y and P after reset, with their written marks (10_state.md R37, P_REG_INIT). -/
def initRegs (init : RegInit) (s : State) : State :=
  match init with
  | .unwritten => { s with a := 0#8, x := 0#8, y := 0#8, p := 0#8, written := Written.none }
  | .values a x y p => { s with a := a, x := x, y := y, p := p, written := Written.all }

/-- CPU `reset(bus)` at launch (70_reset_and_hazards.md R330, R331): the vector read may fault (R332). Reset changes no
device's own state (R331), so a peripheral that owns the vector answers the read with its storage as it was (log 26). -/
def launch (cfg : Config) (b : Bus) : Host.Outcome State Fault Refusal :=
  let s : State := {
    cfg := cfg, a := 0#8, x := 0#8, y := 0#8, sp := cfg.spReset, pc := 0#16, p := 0#8, written := Written.none
    pending := 0, opcode := none, addrLatch := 0#17, dataLatch := 0#16, cyclesTotal := none, unknownSeen := false
    bus := b, draws := 0 }
  match memRead16 (cfg.resetVector.setWidth 17) (initRegs cfg.regInit s) with
  | .ok r => .next ((r.2.setBus { r.2.bus with devs := b.devs }).setPc r.1)
  | .error f => .fault f

/-- The platform of 95_test_vectors.md section 2, assembled from power-on: RAM 0x0000 to 0x7FFF, then ROM 0x8000 to
0xFFFF. -/
def standardPlatform : Except ConfigError Bus := do
  let b := construct ⟨0, 0x8000, .rom []⟩ (construct ⟨0, 0x8000, .ram []⟩ Bus.powerOn)
  let r ← registerAuto 0x0000 0 b
  let r ← registerAuto 0x8000 1 r.bus
  return r.bus

end Sys2Proof.Machine
end

