-- ==== Sys2Proof/Safety.lean ====
section
/-! DEFINITION. The terms claims are stated in: well-formed states, what no run changes, frames, the bytes a fetch
reads, diagnostics-level facts of a run (00_scope.md R5 P_END, 70_reset_and_hazards.md R345). -/

namespace Sys2Proof.Machine

/-! ## Well-formed states -/

/-- The backing storage is canonical and inside the device. -/
def Device.wf (dev : Device) : Bool :=
  match dev.body with
  | .ram m | .rom m => m.wf && m.within dev.size
  | .peripheral _ _ _ _ => true

/-- A registered range lies in the 16-bit space (20_memory.md R55) and names a device. -/
def MapRange.wf (n : Nat) (r : MapRange) : Bool := decide (r.first + r.count ≤ 0x10000) && decide (r.dev < n)

/-- The clock order names devices, each once (20_memory.md R56). -/
def Bus.orderOk (b : Bus) : Bool := b.order.all (fun d => decide (d < b.devs.length)) && decide b.order.Nodup

/-- The platform part of the bus. -/
def Bus.wf (b : Bus) : Bool := b.devs.all Device.wf && b.map.all (MapRange.wf b.devs.length) && b.orderOk

/-- The records are numbered 0, 1, 2, ... in order, below the sequence counter (20_memory.md R57, 40_core_cycle.md
R144). -/
def Bus.logOk (b : Bus) : Bool :=
  (b.log.zipIdx.all fun r => decide (r.1.sequence = r.2)) && decide (b.log.length ≤ b.seq)

/-- Under `WRAP16` no address of 0x10000 or more is latched or logged (30_encoding.md R109). -/
def State.addressesOk (s : State) : Prop :=
  s.cfg.eaOverflow = .wrap16 →
    s.addrLatch.toNat < 0x10000 ∧ s.bus.lastAddress.toNat < 0x10000 ∧ ∀ r ∈ s.bus.log, r.address.toNat < 0x10000

/-- The invariant of a run. -/
structure State.Inv (s : State) : Prop where
  bus : s.bus.wf = true
  log : s.bus.logOk = true
  addresses : s.addressesOk

/-! ## What no run changes -/

/-- A device less what a run may change: RAM contents and a peripheral's own storage. ROM contents stay. -/
def Device.fixedPart (dev : Device) : Device :=
  match dev.body with
  | .ram _ => { dev with body := .ram [] }
  | .rom m => { dev with body := .rom m }
  | .peripheral u _ before after => { dev with body := .peripheral u [] before after }

/-- The bus less what a run may change. -/
def Bus.fixedPart (b : Bus) : List Device := b.devs.map Device.fixedPart

/-- A device less a peripheral's own storage. -/
def Device.storagePart (dev : Device) : Device :=
  match dev.body with
  | .ram m => { dev with body := .ram m }
  | .rom m => { dev with body := .rom m }
  | .peripheral u _ before after => { dev with body := .peripheral u [] before after }

/-- Every byte of every RAM and ROM device, hidden ones too. -/
def Bus.storagePart (b : Bus) : List Device := b.devs.map Device.storagePart

/-! ## Frames -/

/-- Every register but those listed keeps its value and its written mark. -/
def keepsRegs (except : List Reg) (s t : State) : Prop :=
  ∀ r, r ∉ except → t.reg r = s.reg r ∧ t.regWritten r = s.regWritten r

/-- Every flag but those listed keeps its value and its written mark. -/
def keepsFlags (except : List Flag) (s t : State) : Prop :=
  ∀ f, f ∉ except → t.flag f = s.flag f ∧ t.flagWritten f = s.flagWritten f

/-- Every byte of memory but those at the listed addresses reads as before. -/
def keepsMemory (except : List BusAddr) (s t : State) : Prop :=
  ∀ a : BusAddr, a ∉ except → t.peek a = s.peek a

/-- What no instruction writes: the launch parameters, the last opcode, the unknown-opcode mark, the address map, the
clock order, the shadow latch, and the fixed part of every device. -/
structure keepsMachine (s t : State) : Prop where
  cfg : t.cfg = s.cfg
  opcode : t.opcode = s.opcode
  unknownSeen : t.unknownSeen = s.unknownSeen
  map : t.bus.map = s.bus.map
  order : t.bus.order = s.bus.order
  lastAddress : t.bus.lastAddress = s.bus.lastAddress
  lastData : t.bus.lastData = s.bus.lastData
  fixed : t.bus.fixedPart = s.bus.fixedPart

/-- The byte an address holds after a write of `v` there: `v` in RAM, what it held anywhere else (20_memory.md R63,
R64, R68). -/
def storedAs (s : State) (a : BusAddr) (v : Byte) : Option Byte := if s.isRam a then some v else s.peek a

/-- An instruction of cost `c` has ended: `pending` and `cycles_total` hold it (40_core_cycle.md R142). -/
def endsWithCost (t : State) (c : Nat) : Prop := t.pending = c ∧ t.cyclesTotal = some c

/-- An instruction whose rule returns the constant `c` has ended: its entry of P_CYCLES, which is `c` unless the launch
changes P_CYCLES (00_scope.md R5; log 19). -/
def endsWithFixedCost (s t : State) (opc : Byte) (c : Nat) : Prop :=
  endsWithCost t (baseCost s.cfg opc) ∧ (s.cfg.cycleOverrides = [] → t.pending = c)

/-- Register `r` holds `v` and is written. -/
def State.holds (t : State) (r : Reg) (v : Byte) : Prop := t.reg r = v ∧ t.regWritten r = true

/-- Flag `f` is `v` and is written. -/
def State.flagIs (t : State) (f : Flag) (v : Bool) : Prop := t.flag f = v ∧ t.flagWritten f = true

/-- Z and N are those of the result byte (10_state.md R26). -/
def State.nzOf (t : State) (r : Byte) : Prop := t.flagIs .z (r == 0#8) ∧ t.flagIs .n (r.getLsbD 7)

/-- The frame of an instruction: every register but `regs`, every flag but `flags`, every byte of memory but those at
`mem`, and everything no instruction writes. -/
structure Frame (regs : List Reg) (flags : List Flag) (mem : List BusAddr) (s t : State) : Prop where
  regs : keepsRegs regs s t
  flags : keepsFlags flags s t
  memory : keepsMemory mem s t
  machine : keepsMachine s t

/-- One record appended to the log, numbered by the sequence counter (20_memory.md R66 to R69). -/
def logsOne (k : AccessKind) (a : BusAddr) (data : Word) (s t : State) : Prop :=
  t.bus.log = s.bus.log ++ [⟨k, a, data, s.bus.seq⟩] ∧ t.bus.seq = s.bus.seq + 1

/-- No record appended. -/
def logsNone (s t : State) : Prop := t.bus.log = s.bus.log ∧ t.bus.seq = s.bus.seq

/-- The records `t` has after those of `s` name every device that may differ: any other is as it was, a peripheral's own
storage too (20_memory.md R62, R78). -/
def keepsOtherDevices (s t : State) : Prop :=
  ∃ l, t.bus.log = s.bus.log ++ l ∧
    ∀ d, (∀ r ∈ l, s.bus.owner r.address.toNat ≠ some d) → t.bus.devs[d]? = s.bus.devs[d]?

/-- Two addresses belong to one device, or to none. -/
def State.sameOwner (s : State) (a a' : BusAddr) : Prop := s.bus.owner a.toNat = s.bus.owner a'.toNat

/-- A short stored at `a`: the low byte at `a`, the high byte at `a + 1` when the device of `a` owns it too
(20_memory.md R69, R75). -/
def storesShort (s t : State) (a : BusAddr) (w : Word) : Prop :=
  t.peek a = storedAs s a (lowByte w) ∧ (s.sameOwner a (a + 1) → t.peek (a + 1) = storedAs s (a + 1) (highByte w))

end Sys2Proof.Machine

namespace Sys2Proof

open Machine

/-! ## When an instruction completes -/

/-- The resolver of an operand completes: its index register is written (10_state.md R37) and its pointer's short read
fits its device (20_memory.md R65). -/
def Operand.ready (o : Operand) (s : State) : Bool :=
  match o with
  | .imm _ | .zp _ | .abs _ | .rel _ => true
  | .zpX _ | .absX _ => s.regWritten .x
  | .zpY _ | .absY _ => s.regWritten .y
  | .indX zz => s.regWritten .x && s.bus.shortFits (zpIndexed s.cfg zz s.x)
  | .indY zz => s.regWritten .y && s.bus.shortFits (zz.setWidth 17)
  | .ind addr => s.bus.shortFits (addr.setWidth 17)

/-- The index register of a mode (30_encoding.md R107 to R114). -/
def Operand.index (o : Operand) : Option Reg :=
  match o with
  | .zpX _ | .absX _ | .indX _ => some .x
  | .zpY _ | .absY _ | .indY _ => some .y
  | .imm _ | .zp _ | .abs _ | .ind _ | .rel _ => none

/-- The address of the pointer an indirect mode reads (30_encoding.md R110 to R114). -/
def Operand.pointer (o : Operand) (s : State) : Option BusAddr :=
  match o with
  | .indX zz => some (zpIndexed s.cfg zz s.x)
  | .indY zz => some (zz.setWidth 17)
  | .ind addr => some (addr.setWidth 17)
  | .imm _ | .zp _ | .zpX _ | .zpY _ | .abs _ | .absX _ | .absY _ | .rel _ => none

/-- The addresses of the short accesses an instruction may make once its bytes are fetched (20_memory.md R77): the pointer
of an indirect mode, the return address of JSR, RTS, BRK and RTI on the stack, the BRK vector. -/
def Instr.shorts (i : Instr) (s : State) : List BusAddr :=
  (match i.operand with | some o => (o.pointer s).toList | none => []) ++
    if i.mnemonic = .jsr then [stackAddr s.cfg (s.sp - 2)]
    else if i.mnemonic = .brk then [stackAddr s.cfg (s.sp - 2), s.cfg.brkVector.setWidth 17]
    else if i.mnemonic = .rts then [stackAddr s.cfg s.sp]
    else if i.mnemonic = .rti then [stackAddr s.cfg (s.sp + 1)]
    else []

/-- Every bit of P that PHP and BRK read is written (10_state.md R37). -/
def Machine.State.statusReadable (s : State) : Prop :=
  ∀ f : Flag, s.cfg.phpMask.getLsbD f.bit = false → s.flagWritten f = true

/-- ADC and SBC draw their results (43_arith_logic.md R201). -/
def Machine.State.decimalDraws (s : State) : Prop := s.flag .d = true ∧ s.cfg.decimal = .draw

/-! ## The spec's tables of writers -/

/-- The flag writers of 10_state.md R27. -/
def Machine.Flag.writers (cfg : Config) (f : Flag) : List Mnemonic :=
  match f with
  | .c => [.adc, .sbc, .cmp, .cpx, .cpy, .asl, .lsr, .rol, .ror, .clc, .sec, .plp, .rti]
  | .z | .n => [.lda, .ldx, .ldy, .tax, .tay, .txa, .tya, .tsx, .pla, .adc, .sbc, .and, .ora, .eor, .bit, .cmp, .cpx,
      .cpy, .inc, .dec, .inx, .iny, .dex, .dey, .asl, .lsr, .rol, .ror, .plp, .rti] ++
      if cfg.storeSetsNZ then [.sta, .stx, .sty] else []
  | .v => [.adc, .sbc, .bit, .clv, .plp, .rti]
  | .i => [.cli, .sei, .brk, .plp, .rti]
  | .d => [.cld, .sed, .plp, .rti]
  | .b | .u => [.plp, .rti]

/-- The loads with the register each loads (41_load_store.md R170 to R172). -/
def Mnemonic.loads : List (Mnemonic × Reg) := [(.lda, .a), (.ldx, .x), (.ldy, .y)]

/-- The stores with the register each stores (41_load_store.md R174 to R176). -/
def Mnemonic.stores : List (Mnemonic × Reg) := [(.sta, .a), (.stx, .x), (.sty, .y)]

/-- The compares with the register each reads (43_arith_logic.md R207 to R209). -/
def Mnemonic.compares : List (Mnemonic × Reg) := [(.cmp, .a), (.cpx, .x), (.cpy, .y)]

/-- The shifts and rotates (44_shift_rotate.md R230). -/
def Mnemonic.shifts : List Mnemonic := [.asl, .lsr, .rol, .ror]

/-- The writers of A, X and Y (10_state.md R21, R22); a shift writes A in accumulator mode. -/
def Machine.Reg.writtenBy (r : Reg) (i : Instr) : Bool :=
  match r with
  | .a => decide (i.mnemonic ∈ [.lda, .pla, .txa, .tya, .adc, .sbc, .and, .ora, .eor]) ||
      (decide (i.mnemonic ∈ Mnemonic.shifts) && decide (i.operand = none))
  | .x => decide (i.mnemonic ∈ [.ldx, .tax, .tsx, .inx, .dex])
  | .y => decide (i.mnemonic ∈ [.ldy, .tay, .iny, .dey])

/-- The writers of SP (10_state.md R23). -/
def Instr.writesSp (i : Instr) : Bool := decide (i.mnemonic ∈ [.txs, .pha, .php, .pla, .plp, .jsr, .rts, .brk, .rti])

/-- The instructions that store: STA, STX, STY, the read-modify-writes of memory, the pushes, JSR and BRK
(41_load_store.md R174 to R176, 20_memory.md R83, 42_transfer_stack.md R181, R183). -/
def Instr.storesMemory (i : Instr) : Bool :=
  decide (i.mnemonic ∈ [.sta, .stx, .sty, .inc, .dec, .pha, .php, .jsr, .brk]) ||
    (decide (i.mnemonic ∈ Mnemonic.shifts) && decide (i.operand ≠ none))

/-- The eight branches, each with its flag and the value it tests for (45_control.md R246 to R253). -/
def Mnemonic.branches : List (Mnemonic × Flag × Bool) :=
  [(.bpl, .n, false), (.bmi, .n, true), (.bvc, .v, false), (.bvs, .v, true), (.bcc, .c, false), (.bcs, .c, true),
    (.bne, .z, false), (.beq, .z, true)]

/-- The control transfers, which write PC (10_state.md R28, 45_control.md). -/
def Instr.transfersControl (i : Instr) : Bool :=
  decide (i.mnemonic ∈ [.jmp, .jsr, .rts, .brk, .rti, .bpl, .bmi, .bvc, .bvs, .bcc, .bcs, .bne, .beq])

/-- The opcodes of a mnemonic with their modes, in the order of the table (30_encoding.md R121). -/
def Mnemonic.opcodes (m : Mnemonic) : List (Mode × Byte) :=
  (((List.range 16).flatMap opcodeRows).filter fun r => r.mnemonic == m).map fun r => (r.mode, r.opcode)

end Sys2Proof

namespace Sys2Proof.Machine

/-! ## The laws of the shifts, over the naturals -/

/-- The result byte of a shift of `m` under the old carry, as a natural number (44_shift_rotate.md R231 to R234). -/
def shiftResult (cfg : Config) (mn : Mnemonic) (m : Byte) (c : Bool) : Nat :=
  let top := decide (128 ≤ m.toNat)
  let low := decide (m.toNat % 2 = 1)
  if mn = .asl then 2 * m.toNat % 256
  else if mn = .lsr then m.toNat / 2
  else if mn = .rol then (2 * m.toNat + (if cfg.rotateCarryIn = .old then c else top).toNat) % 256
  else m.toNat / 2 + 128 * (if cfg.rotateCarryIn = .old then c else low).toNat

/-- The bit a shift moves into C: bit 7 for ASL and ROL, bit 0 for LSR and ROR. -/
def shiftCarry (mn : Mnemonic) (m : Byte) : Bool :=
  if mn = .asl ∨ mn = .rol then decide (128 ≤ m.toNat) else decide (m.toNat % 2 = 1)

/-- The rotates read C (10_state.md R27). -/
def State.carryReadable (s : State) (mn : Mnemonic) : Prop := mn = .rol ∨ mn = .ror → s.flagWritten .c = true

/-! ## The bytes a fetch reads -/

/-- What a short read of an address would answer, read off the state: 0xFFFF where nothing is mapped; two bytes of
one RAM or ROM device, inside it; none otherwise (20_memory.md R67). -/
def State.peek16 (s : State) (a : BusAddr) : Option Word :=
  match s.bus.deviceAt a with
  | none => some 0xFFFF#16
  | some (_, dev) =>
    match dev.body with
    | .ram m | .rom m =>
      match dev.offset a.toNat, dev.offset (a.toNat + 1) with
      | some lo, some hi => some (joinLE (m.get lo) (m.get hi))
      | _, _ => none
    | .peripheral _ _ _ _ => none

/-- The bytes of the instruction at PC with the records a fetch of them logs, read off the state; none where a byte
comes from a peripheral or from no byte of a device (30_encoding.md R100 to R104, 40_core_cycle.md R140). -/
def State.codeAtPc (s : State) : Option (List Byte × List Record) :=
  match s.peek (pcAddr s) with
  | none => none
  | some opc =>
    let r0 : Record := ⟨.read, pcAddr s, opc.setWidth 16, 0⟩
    let next : BusAddr := (s.pc + 1).setWidth 17
    if instrLength opc = 1 then some ([opc], [r0])
    else if instrLength opc = 2 then
      (s.peek next).map fun b => ([opc, b], [r0, ⟨.read, next, b.setWidth 16, 1⟩])
    else
      (s.peek16 next).map fun w => ([opc, lowByte w, highByte w], [r0, ⟨.read, next, w, 1⟩])

/-- The state an instruction of `n` bytes, opcode `opc`, runs on: PC past it, the opcode latched, the bus reset and
then the fetch's records logged (10_state.md R28, 40_core_cycle.md R140). -/
def State.afterFetch (s : State) (opc : Byte) (n : Nat) (records : List Record) : State :=
  { s with
    opcode := some opc
    pc := s.pc + BitVec.ofNat 16 n
    bus := { s.bus with log := records, seq := records.length, lastAddress := 0#17, lastData := 0#16 } }

/-- An outcome with the bus latch and the device hooks run on its next state (40_core_cycle.md R147). -/
def thenTickTail (o : Host.Outcome State Fault Refusal) : Host.Outcome State Fault Refusal :=
  match o with
  | .next t => .next (tickTail t)
  | .fault f => .fault f
  | .refused r => .refused r

/-! ## Registration -/

/-- What registering `count` addresses from `first` on for device `d` does to the map and the clock order (20_memory.md
R52 to R54, R56). -/
structure Registers (b : Bus) (d first count : Nat) (r : Registered) : Prop where
  /-- an owned address keeps its owner; the free ones go to the device -/
  owner : ∀ a, r.bus.owner a = match b.owner a with
    | some e => some e
    | none => if first ≤ a ∧ a < first + count then some d else none
  /-- a warning exactly when an address was owned -/
  warned : r.warned = true ↔ ∃ a, first ≤ a ∧ a < first + count ∧ b.owner a ≠ none
  /-- clocked exactly when it was, or when it gained an address -/
  clocked : d ∈ r.bus.order ↔ d ∈ b.order ∨ ∃ a, first ≤ a ∧ a < first + count ∧ b.owner a = none
  /-- last in the order, and no other device moves -/
  order : ∃ l, r.bus.order = b.order ++ l ∧ ∀ e ∈ l, e = d
  /-- once -/
  once : b.order.Nodup → r.bus.order.Nodup
  log : r.bus.log = b.log ∧ r.bus.seq = b.seq
  latch : r.bus.lastAddress = b.lastAddress ∧ r.bus.lastData = b.lastData

/-! ## Runs -/

/-- P_END (70_reset_and_hazards.md R345). -/
inductive RunEnd where
  /-- the first tick boundary with `pending = 0` and PC at the address -/
  | atPC (e : Word)
  /-- after a number of ticks -/
  | afterTicks (n : Nat)
  deriving DecidableEq, Repr

/-- Whether the run has ended at a tick boundary, `done` ticks after its start. -/
def RunEnd.reached (e : RunEnd) (done : Nat) (s : State) : Bool :=
  match e with
  | .atPC a => decide (s.pending = 0) && decide (s.pc = a)
  | .afterTicks n => decide (n ≤ done)

/-- The run from `s` until its end, at most `fuel` ticks: the end state, none for a run that has not ended. -/
def runTo (e : RunEnd) (fuel done : Nat) (s : State) : Host.Outcome (Option State) Fault Refusal :=
  if e.reached done s then .next (some s)
  else
    match fuel with
    | 0 => .next none
    | fuel + 1 =>
      match step s with
      | .next t => runTo e fuel (done + 1) t
      | .fault f => .fault f
      | .refused r => .refused r

/-- No unknown opcode has been executed: the premise a claim may take (40_core_cycle.md R146). -/
def State.onlyKnown (s : State) : Prop := s.unknownSeen = false

end Sys2Proof.Machine
end

