-- ==== Sys2Proof/Certificates/Slice0/Obligations.lean ====
section
/-! DEFINITION. The statements for the provers. Each docstring names the rules it formalises and the file they stand in;
`t` is the state an instruction leaves, `v` what its resolver gives. -/

open Sys2Proof Sys2Proof.Machine

/-- Decoding the encoding of any instruction gives it back, with the bytes after it left over (30_encoding.md R100,
R101, R120, R122). -/
def Obligations.DecodeAfterEncode : Prop :=
  ∀ (i : Instr) (rest : List Byte), i.wf = true → decode (encode i ++ rest) = .ok (i, rest)

/-- Bytes that decode are the encoding of the instruction read, followed by the bytes left over (30_encoding.md R100,
R101, R122). -/
def Obligations.EncodeAfterDecode : Prop :=
  ∀ (bytes : List Byte) (i : Instr) (rest : List Byte), decode bytes = .ok (i, rest) → bytes = encode i ++ rest

/-- Exactly the 105 undocumented opcodes have no descriptor, and the decoder rejects them by name. Which opcodes have
a descriptor is the spec's own decision 92_eei_decisions.md D2, marked in R120 (30_encoding.md R120, R122, R123). -/
def Obligations.UndocumentedOpcodesRefused : Prop :=
  ([0x02#8, 0x03#8, 0x04#8, 0x07#8, 0x0B#8, 0x0C#8, 0x0F#8, 0x12#8, 0x13#8, 0x14#8, 0x17#8, 0x1A#8, 0x1B#8, 0x1C#8,
      0x1F#8, 0x22#8, 0x23#8, 0x27#8, 0x2B#8, 0x2F#8, 0x32#8, 0x33#8, 0x34#8, 0x37#8, 0x3A#8, 0x3B#8, 0x3C#8, 0x3F#8,
      0x42#8, 0x43#8, 0x44#8, 0x47#8, 0x4B#8, 0x4F#8, 0x52#8, 0x53#8, 0x54#8, 0x57#8, 0x5A#8, 0x5B#8, 0x5C#8, 0x5F#8,
      0x62#8, 0x63#8, 0x64#8, 0x67#8, 0x6B#8, 0x6F#8, 0x72#8, 0x73#8, 0x74#8, 0x77#8, 0x7A#8, 0x7B#8, 0x7C#8, 0x7F#8,
      0x80#8, 0x82#8, 0x83#8, 0x87#8, 0x89#8, 0x8B#8, 0x8F#8, 0x92#8, 0x93#8, 0x97#8, 0x9B#8, 0x9C#8, 0x9E#8, 0x9F#8,
      0xA3#8, 0xA7#8, 0xAB#8, 0xAF#8, 0xB2#8, 0xB3#8, 0xB7#8, 0xBB#8, 0xBF#8, 0xC2#8, 0xC3#8, 0xC7#8, 0xCB#8, 0xCF#8,
      0xD2#8, 0xD3#8, 0xD4#8, 0xD7#8, 0xDA#8, 0xDB#8, 0xDC#8, 0xDF#8, 0xE2#8, 0xE3#8, 0xE7#8, 0xEB#8, 0xEF#8, 0xF2#8,
      0xF3#8, 0xF4#8, 0xF7#8, 0xFA#8, 0xFB#8, 0xFC#8, 0xFF#8] : List Byte) =
      ((List.range 256).map (BitVec.ofNat 8)).filter (fun opc => !documented opc) ∧
    ((List.range 256).map (BitVec.ofNat 8)).countP documented = 151 ∧
    (∀ (opc : Byte) (rest : List Byte), documented opc = false → decode (opc :: rest) = .error (.unknownOpcode opc)) ∧
    (∀ (opc lo hi : Byte), documented opc = true → ∃ i rest, decode [opc, lo, hi] = .ok (i, rest) ∧ i.opcode = opc)

/-- The opcode alone decides an instruction's length; an unknown opcode is one byte long. R124 is marked by the spec
as its own inference, from R100 and R123 (30_encoding.md R124). -/
def Obligations.LengthFromOpcodeAlone : Prop :=
  (∀ i : Instr, (encode i).length = instrLength i.opcode ∧ 1 ≤ instrLength i.opcode ∧ instrLength i.opcode ≤ 3) ∧
    (∀ (opc : Byte) (bytes : List Byte) (i : Instr) (rest : List Byte),
      decode (opc :: bytes) = .ok (i, rest) → (opc :: bytes).length = instrLength opc + rest.length) ∧
    (∀ opc : Byte, documented opc = false → instrLength opc = 1)

/-- Words written out from the spec's encodings decode to the instructions they stand for (30_encoding.md R120, R101;
41_load_store.md R170, R174; 43_arith_logic.md R211; 44_shift_rotate.md R234; 45_control.md R241, R243). -/
def Obligations.SpecWordsDecode : Prop :=
  decode [0xA9#8, 0x80#8] = .ok (.ldaImm 0x80#8, []) ∧
    decode [0x8D#8, 0x00#8, 0x02#8] = .ok (.staAbs 0x0200#16, []) ∧
    decode [0xB6#8, 0x0F#8] = .ok (.ldxZpY 0x0F#8, []) ∧
    decode [0x9A#8] = .ok (.txs, []) ∧
    decode [0x71#8, 0x40#8] = .ok (.adcIndY 0x40#8, []) ∧
    decode [0xDE#8, 0x34#8, 0x12#8] = .ok (.decAbsX 0x1234#16, []) ∧
    decode [0x6A#8] = .ok (.rorAcc, []) ∧
    decode [0x20#8, 0x00#8, 0x03#8] = .ok (.jsr 0x0300#16, []) ∧
    decode [0x6C#8, 0xFF#8, 0x10#8] = .ok (.jmpInd 0x10FF#16, []) ∧
    decode [0xD0#8, 0xFB#8] = .ok (.bne 0xFB#8, []) ∧
    decode [0xB8#8] = .ok (.clv, []) ∧
    decodeTableWord 24 0x03_00_20 = some (.jsr 0x0300#16)

/-- A Fetch tick runs the instruction its bytes decode to, then latches the bus and clocks the devices. The state exec
is given is the model's choice (log 18); the one record of a two-byte operand is the spec's own decision
92_eei_decisions.md D15, and R144 its inference; a peripheral's bytes are opaque values (log 9) (40_core_cycle.md
R140, R142, R143, R144, R147; 30_encoding.md R103, R104). -/
def Obligations.StepRunsDecodedInstruction : Prop :=
  (∀ (s : State) (bytes : List Byte) (records : List Record) (i : Instr),
    s.pending = 0 → s.codeAtPc = some (bytes, records) → decode bytes = .ok (i, []) →
    s.cfg.removedOpcodes.contains i.opcode = false →
    step s = thenTickTail (exec i (s.afterFetch i.opcode bytes.length records))) ∧
    ∀ (s : State) (i : Instr) (u : State), s.pending = 0 → fetchInstr s = .ok (.instr i u) →
      step s = thenTickTail (exec i u) ∧
        u = { s with
          pc := s.pc + BitVec.ofNat 16 (encode i).length, opcode := some i.opcode, bus := u.bus, draws := u.draws } ∧
        u.bus.storagePart = s.bus.storagePart ∧ u.bus.map = s.bus.map ∧ u.bus.order = s.bus.order ∧
        ((encode i = [i.opcode] ∧ u.bus.log = [⟨.read, pcAddr s, i.opcode.setWidth 16, 0⟩]) ∨
          (∃ b, encode i = [i.opcode, b] ∧ u.bus.log = [⟨.read, pcAddr s, i.opcode.setWidth 16, 0⟩,
            ⟨.read, (s.pc + 1).setWidth 17, b.setWidth 16, 1⟩]) ∨
          ∃ w, encode i = [i.opcode, lowByte w, highByte w] ∧ u.bus.log =
            [⟨.read, pcAddr s, i.opcode.setWidth 16, 0⟩, ⟨.read, (s.pc + 1).setWidth 17, w, 1⟩])

/-- A Busy tick decrements pending and changes nothing else of the core and no byte of memory (40_core_cycle.md R141).
-/
def Obligations.BusyTickOnlyCountsDown : Prop :=
  ∀ s : State, 0 < s.pending →
    ∃ t, step s = .next t ∧ t = { s with pending := s.pending - 1, bus := t.bus } ∧ keepsMemory [] s t ∧
      t.bus.storagePart = s.bus.storagePart ∧ t.bus.map = s.bus.map ∧ t.bus.order = s.bus.order ∧
      t.bus.seq = s.bus.seq ∧ t.bus.log = s.bus.log.dropLast

/-- An unknown opcode is a one-byte tick of cost 0 with no effect, or a named fault under the strict policy. The one-
byte no-op with unknown_seen and the cycles_total of 0 are the spec's own decisions 92_eei_decisions.md D3 and D29;
that data_latch is unchanged is log 22, and unknown_seen at the fault log 14 (40_core_cycle.md R146). -/
def Obligations.UnknownOpcodeTick : Prop :=
  ∀ (s : State) (opc : Byte), s.pending = 0 → (memRead8 (pcAddr s) (busReset s)).1 = opc →
    descriptor s.cfg opc = none →
    (∀ v, s.peek (pcAddr s) = some v → opc = v) ∧
    (s.cfg.unknownOpcode = .nop →
      (∃ u, cpuClock s = .next u ∧
        u = { s with pc := s.pc + 1, opcode := some opc, cyclesTotal := some 0, unknownSeen := true, bus := u.bus, draws := u.draws } ∧
        keepsMemory [] s u ∧ u.bus.storagePart = s.bus.storagePart ∧
        u.bus.log = [⟨.read, pcAddr s, opc.setWidth 16, 0⟩]) ∧
      ∃ t, step s = .next t ∧ t.pending = 0 ∧ t.pc = s.pc + 1 ∧ t.bus.lastAddress = pcAddr s ∧
        t.bus.lastData = opc.setWidth 16 ∧ t.bus.log = []) ∧
    (s.cfg.unknownOpcode = .fault → ∃ m, step s = .fault (.unknownOpcode opc s.pc m) ∧
      m = { s with pc := s.pc + 1, opcode := some opc, unknownSeen := true, bus := m.bus, draws := m.draws } ∧
      m.bus.log = [⟨.read, pcAddr s, opc.setWidth 16, 0⟩])

/-- The bus clock of a tick pops the most recent record into the shadow latch, or leaves the latch on an empty log.
That the latch stands on an empty log is the spec's own decision 92_eei_decisions.md D23 (20_memory.md R71, R72). -/
def Obligations.BusClockPopsTheLatestRecord : Prop :=
  ∀ s : State,
    (s.bus.log = [] → busClockAvailable s = false ∧ busClock s = s) ∧
      (∀ (l : List Record) (r : Record), s.bus.log = l ++ [r] → busClockAvailable s = true ∧
        busClock s = { s with bus := { s.bus with log := l, lastAddress := r.address, lastData := r.data } }) ∧
      (tickTail s).bus.log = s.bus.log.dropLast ∧ (tickTail s).bus.lastAddress = (busClock s).bus.lastAddress ∧
      (tickTail s).bus.lastData = (busClock s).bus.lastData

/-- After the bus latch every registered device's hooks run once on the latch; RAM and ROM keep every byte. A
peripheral's hooks are opaque functions (log 9) (20_memory.md R63, R73, R74, R62). -/
def Obligations.EveryDeviceClockedOnce : Prop :=
  ∀ s : State, s.bus.wf = true →
    tickTail s = { s with bus := (tickTail s).bus } ∧ (tickTail s).bus.map = s.bus.map ∧
      (tickTail s).bus.order = s.bus.order ∧ (tickTail s).bus.seq = s.bus.seq ∧
      (tickTail s).bus.storagePart = s.bus.storagePart ∧
      ∀ (d : Nat) (dev : Device), s.bus.devs[d]? = some dev →
        (tickTail s).bus.devs[d]? = some (if d ∈ s.bus.order then
          { dev with body := clockBody (busClock s).bus.lastAddress (busClock s).bus.lastData dev.body } else dev) ∧
        ∀ (u : Nat) (own own1 own2 own3 : List Byte) (before after : Bool) (la : BusAddr) (ld : Word),
          dev.body = .peripheral u own before after → d ∈ s.bus.order → la = (busClock s).bus.lastAddress →
          ld = (busClock s).bus.lastData → own1 = (if before then Config.peripheralBeforeClock u la ld own else own) →
          own2 = Config.peripheralClock u la ld own1 →
          own3 = (if after then Config.peripheralAfterClock u la ld own2 else own2) →
          (tickTail s).bus.devs[d]? = some { dev with body := .peripheral u own3 before after }

/-- Every step keeps the invariant: canonical storage, a lawful map and clock order, a numbered log, 16-bit addresses
(20_memory.md R51, R55, R56, R57; 30_encoding.md R109; 40_core_cycle.md R144). -/
def Obligations.StepKeepsInvariant : Prop :=
  ∀ s t : State, s.Inv → step s = .next t → t.Inv

/-- The state after reset has the invariant. State.reset is the model's choice of registers (log 1: all written, where
the spec's default is UNWRITTEN), platform (log 2) and contents (log 3) (10_state.md R38; 20_memory.md R58;
70_reset_and_hazards.md R330, R331). -/
def Obligations.ResetHasInvariant : Prop :=
  State.reset.Inv ∧ State.reset.pending = 0 ∧ State.reset.written = Written.all

/-- No step changes the launch parameters, the address map, the clock order, a device's place or kind, or a ROM byte
(20_memory.md R55, R60, R64; 70_reset_and_hazards.md R335). -/
def Obligations.StepKeepsThePlatform : Prop :=
  ∀ s t : State, step s = .next t →
    t.cfg = s.cfg ∧ t.bus.map = s.bus.map ∧ t.bus.order = s.bus.order ∧ t.bus.fixedPart = s.bus.fixedPart

/-- With the costs of the table, pending never exceeds 7 (10_state.md R30; 30_encoding.md R121, R118; 45_control.md
R245). -/
def Obligations.PendingNeverExceedsSeven : Prop :=
  ∀ s t : State, s.cfg.cycleOverrides = [] ∧ s.pending ≤ 7 → step s = .next t →
    t.cfg.cycleOverrides = [] ∧ t.pending ≤ 7

/-- unknown_seen is set by the execution of an opcode with no descriptor, by nothing else, and never cleared.
unknown_seen is the spec's own decision 92_eei_decisions.md D3 (40_core_cycle.md R145, R146). -/
def Obligations.UnknownSeenIsSticky : Prop :=
  ∀ s t : State, step s = .next t →
    (t.unknownSeen = true ↔
      s.unknownSeen = true ∨ (s.pending = 0 ∧ descriptor s.cfg (fetch8 (busReset s)).1 = none))

/-- A machine whose registers and flags are all written stays so, and no step faults on an unwritten read (10_state.md
R37). -/
def Obligations.WrittenMachineNeverFaultsOnARead : Prop :=
  ∀ s : State, s.written = Written.all →
    (∀ t, step s = .next t → t.written = Written.all) ∧ ∀ r m, step s ≠ .fault (.unwrittenRead r m)

/-- No step is refused; a fault is one of the spec's three, each under its condition, and carries the machine as it
stood. The faults are the spec's own decisions 92_eei_decisions.md D3, D6 and D26 and R311 its inference; the machine
a fault carries is log 14, a short of any device log 10 (10_state.md R37; 20_memory.md R65, R77; 40_core_cycle.md
R144, R146; 60_exceptions.md R300, R310, R311; 70_reset_and_hazards.md R340). -/
def Obligations.FaultsAreTheNamedOnes : Prop :=
  ∀ s : State,
    (∀ r, step s ≠ .refused r) ∧
      ∀ f, step s = .fault f → s.pending = 0 ∧ keepsRegs [] s f.machine ∧
        (∃ l, f.machine.bus.log = ⟨.read, pcAddr s, (fetch8 (busReset s)).1.setWidth 16, 0⟩ :: l) ∧
        ((∃ m a, f = .shortPastDevice m ∧ s.bus.shortFits a = false ∧
            ((instrLength (fetch8 (busReset s)).1 = 3 ∧ a = (s.pc + 1).setWidth 17) ∨
              ∃ i u, fetchInstr s = .ok (.instr i u) ∧ a ∈ i.shorts u)) ∨
          (∃ r m, f = .unwrittenRead (.reg r) m ∧ s.regWritten r = false ∧ keepsFlags [] s m) ∨
          (∃ g m, f = .unwrittenRead (.flag g) m ∧ s.flagWritten g = false ∧ keepsFlags [] s m) ∨
          ∃ m, f = .unknownOpcode (fetch8 (busReset s)).1 s.pc m ∧ s.cfg.unknownOpcode = .fault ∧
            descriptor s.cfg (fetch8 (busReset s)).1 = none)

/-- Each flag is written by exactly the instructions of the table of flag writers. That RTI writes B and bit 5 follows
R27 and R255 where R25 names PLP alone (log 27) (10_state.md R27; 45_control.md R255). -/
def Obligations.FlagsHaveOnlyTheirWriters : Prop :=
  ∀ (i : Instr) (s t : State) (f : Flag), exec i s = .next t →
    (i.mnemonic ∉ f.writers s.cfg → t.flag f = s.flag f ∧ t.flagWritten f = s.flagWritten f) ∧
      (i.mnemonic ∈ f.writers s.cfg → t.flagWritten f = true)

/-- A, X and Y are written by exactly the instructions the spec lists for each (10_state.md R21, R22). -/
def Obligations.RegistersHaveOnlyTheirWriters : Prop :=
  ∀ (i : Instr) (s t : State) (r : Reg), exec i s = .next t →
    (r.writtenBy i = false → t.reg r = s.reg r ∧ t.regWritten r = s.regWritten r) ∧
      (r.writtenBy i = true → t.regWritten r = true)

/-- Only the storing instructions change a byte of RAM or ROM; no instruction changes a device its accesses do not go
to (20_memory.md R62, R64, R78, R83; 30_encoding.md R117). -/
def Obligations.OnlyStoresChangeMemory : Prop :=
  ∀ (i : Instr) (s t : State), exec i s = .next t →
    keepsOtherDevices s t ∧ (t.bus.log = s.bus.log → t.bus.devs = s.bus.devs) ∧
      (i.storesMemory = false → keepsMemory [] s t ∧ t.bus.storagePart = s.bus.storagePart)

/-- SP changes only in TXS, pushes, pulls, JSR, RTS, BRK, RTI; PC after the fetch only in control transfers
(10_state.md R23, R28). -/
def Obligations.SpAndPcHaveOnlyTheirWriters : Prop :=
  ∀ (i : Instr) (s t : State), exec i s = .next t →
    (i.writesSp = false → t.sp = s.sp) ∧ (i.transfersControl = false → t.pc = s.pc)

/-- addr_latch holds the resolved value after an instruction with a resolver, and is unchanged by one without. What
addr_latch holds is the spec's own decision 92_eei_decisions.md D28 (30_encoding.md R119). -/
def Obligations.AddressLatchHoldsTheResolvedValue : Prop :=
  ∀ (i : Instr) (s t : State), exec i s = .next t →
    (i.operand = none → t.addrLatch = s.addrLatch) ∧
      ∀ o, i.operand = some o → ∃ v, resolve o s = .ok v ∧ t.addrLatch = v.value

/-- Immediate, zero-page, absolute and relative resolvers return the operand itself, read nothing and never report a
crossing (30_encoding.md R102, R105, R106, R108, R115, R119). -/
def Obligations.UnindexedResolvers : Prop :=
  ∀ (s : State) (b : Byte) (w : Word), ∃ v1 v2 v3 v4,
    resolve (.imm b) s = .ok v1 ∧ resolve (.zp b) s = .ok v2 ∧ resolve (.abs w) s = .ok v3 ∧
      resolve (.rel b) s = .ok v4 ∧
      v1.value.toNat = b.toNat ∧ v2.value.toNat = b.toNat ∧ v3.value.toNat = w.toNat ∧ v4.value.toNat = b.toNat ∧
      ∀ v ∈ [v1, v2, v3, v4], v.crossed = false ∧ v.state = { s with addrLatch := v.value }

/-- Indexed resolvers add the index with the launch's wrap, and the page test divides by P_PAGE_DIVISOR. The wraps and
the divisor are the spec's own decisions 92_eei_decisions.md D11, D12 and D13 (30_encoding.md R107, R109, R112). -/
def Obligations.IndexedResolvers : Prop :=
  (∀ (s : State) (b : Byte) (w : Word) (o : Operand) (r : Reg),
    s.regWritten r = true → (o, r) ∈ [(Operand.zpX b, Reg.x), (.zpY b, .y), (.absX w, .x), (.absY w, .y)] →
    ∃ v, resolve o s = .ok v ∧ v.state = { s with addrLatch := v.value } ∧
      (o = .zpX b ∨ o = .zpY b → v.crossed = false ∧
        v.value.toNat = if s.cfg.zpIndexWrap = .wrap8 then (b.toNat + (s.reg r).toNat) % 256
          else b.toNat + (s.reg r).toNat) ∧
      (o = .absX w ∨ o = .absY w →
        v.value.toNat = (if s.cfg.eaOverflow = .wrap16 then (w.toNat + (s.reg r).toNat) % 65536
          else w.toNat + (s.reg r).toNat) ∧
        (v.crossed = true ↔ w.toNat / s.cfg.pageDivisor ≠ v.value.toNat / s.cfg.pageDivisor))) ∧
    (∀ s : State, s.bus.wf = true → s.cfg.eaOverflow = .float → ∀ a : BusAddr, 0x10000 ≤ a.toNat →
      s.bus.deviceAt a = none) ∧
    Config.taken.pageDivisor = 255 ∧ pageCrossed Config.taken 0x00FE 0x00FF = true ∧
    pageCrossed Config.taken 0x01FF 0x0200 = false

/-- The indirect resolvers read their pointer with one short access, index before or after it, and keep the core. The
wraps and the one short read of a pointer are the spec's own decisions 92_eei_decisions.md D12, D13 and D14; a
peripheral's pointer is an opaque value (log 9) (20_memory.md R62, R67; 30_encoding.md R110, R111, R113, R114). -/
def Obligations.IndirectResolvers : Prop :=
  (∀ (s : State) (p : BusAddr) (w w' : Word) (u : State), memRead16 p s = .ok (w, u) →
    logsOne .read p w s u ∧ (s.peek16 p = some w' → w = w') ∧
      u = { s with bus := u.bus, draws := u.draws } ∧ u.bus.storagePart = s.bus.storagePart ∧ u.bus.map = s.bus.map ∧
      u.bus.order = s.bus.order ∧ u.bus.lastAddress = s.bus.lastAddress ∧ u.bus.lastData = s.bus.lastData) ∧
    (∀ (s : State) (p : BusAddr) (w : Word), s.peek16 p = some w → ∃ u, memRead16 p s = .ok (w, u)) ∧
    ∀ (s : State) (zz : Byte) (addr w : Word) (u : State),
      (∀ p : BusAddr, s.regWritten .x = true → memRead16 p s = .ok (w, u) →
        p.toNat = (if s.cfg.zpIndexWrap = .wrap8 then (zz.toNat + s.x.toNat) % 256 else zz.toNat + s.x.toNat) →
        ∃ v, resolve (.indX zz) s = .ok v ∧ v.value.toNat = w.toNat ∧ v.crossed = false ∧
          v.state = { u with addrLatch := v.value }) ∧
      (s.regWritten .y = true → memRead16 (zz.setWidth 17) s = .ok (w, u) →
        ∃ v, resolve (.indY zz) s = .ok v ∧
          v.value.toNat = (if s.cfg.eaOverflow = .wrap16 then (w.toNat + s.y.toNat) % 65536 else w.toNat + s.y.toNat) ∧
          (v.crossed = true ↔ w.toNat / s.cfg.pageDivisor ≠ v.value.toNat / s.cfg.pageDivisor) ∧
          v.state = { u with addrLatch := v.value }) ∧
      (memRead16 (addr.setWidth 17) s = .ok (w, u) →
        ∃ v, resolve (.ind addr) s = .ok v ∧ v.value.toNat = w.toNat ∧ v.crossed = false ∧
          v.state = { u with addrLatch := v.value })

/-- A resolver completes exactly when its index is written and its pointer fits its device; otherwise it faults by
name. The faults are the spec's own decisions 92_eei_decisions.md D6 and D26 and R311 its inference; the machine a
fault carries is log 14 (10_state.md R37; 20_memory.md R65; 30_encoding.md R110; 60_exceptions.md R311). -/
def Obligations.ResolversCompleteExactlyWhenReady : Prop :=
  ∀ (o : Operand) (s : State),
    ((∃ v, resolve o s = .ok v) ↔ o.ready s = true) ∧
      ∀ f, resolve o s = .error f →
        (∃ p, o.pointer s = some p ∧ s.bus.shortFits p = false ∧ f = .shortPastDevice s) ∨
        ∃ r m, o.index = some r ∧ s.regWritten r = false ∧ f = .unwrittenRead (.reg r) m ∧
          ((∀ zz, o ≠ .indY zz) → m = s) ∧
          ∀ zz, o = .indY zz → ∃ w, memRead16 (zz.setWidth 17) s = .ok (w, m)

/-- An immediate operand is the value itself; any other is one byte read at the effective address (20_memory.md R66;
30_encoding.md R105, R117; 60_exceptions.md R305). -/
def Obligations.OperandAccess : Prop :=
  ∀ (o : Operand) (s : State) (v : Resolved), resolve o s = .ok v →
    (∀ n, o = .imm n → readOperand o v = (n, v.state)) ∧
      ((∀ n, o ≠ .imm n) →
        logsOne .read v.value ((readOperand o v).1.setWidth 16) v.state (readOperand o v).2 ∧
          (∀ m, s.peek v.value = some m → (readOperand o v).1 = m) ∧
          (s.bus.deviceAt v.value = none → (readOperand o v).1 = 0xFF#8))

/-- A byte written to RAM is read back, no other byte changes, and each access leaves one record (20_memory.md R61,
R63, R66, R68). -/
def Obligations.RamReturnsTheByteWritten : Prop :=
  ∀ (s : State) (a : BusAddr) (v : Byte), s.bus.wf = true →
    (memWrite8 a v s).peek a = storedAs s a v ∧ keepsMemory [a] s (memWrite8 a v s) ∧
      logsOne .write a (v.setWidth 16) s (memWrite8 a v s) ∧
      (s.isRam a = true → (memRead8 a (memWrite8 a v s)).1 = v ∧
        logsOne .read a (v.setWidth 16) (memWrite8 a v s) (memRead8 a (memWrite8 a v s)).2)

/-- Unmapped reads float, writes to unmapped or ROM addresses drop, a peripheral serves its own accesses; each access
is logged. A peripheral's four accesses are opaque functions (log 9) (20_memory.md R62, R64, R66, R67, R68, R69, R78;
60_exceptions.md R305). -/
def Obligations.UnmappedReadsFloatAndDeadWritesDrop : Prop :=
  ∀ (s : State) (a : BusAddr),
    (s.bus.deviceAt a = none →
      (memRead8 a s).1 = 0xFF#8 ∧ logsOne .read a 0x00FF#16 s (memRead8 a s).2 ∧
        (∃ t, memRead16 a s = .ok (0xFFFF#16, t) ∧ logsOne .read a 0xFFFF#16 s t) ∧
        (∀ v, (memWrite8 a v s).bus.devs = s.bus.devs ∧ logsOne .write a (v.setWidth 16) s (memWrite8 a v s)) ∧
        ∀ w, ∃ t, memWrite16 a w s = .ok t ∧ t.bus.devs = s.bus.devs ∧ logsOne .write a w s t) ∧
    (∀ d dev m, s.bus.deviceAt a = some (d, dev) → dev.body = .rom m →
      (∀ v, (memWrite8 a v s).bus.devs = s.bus.devs ∧ logsOne .write a (v.setWidth 16) s (memWrite8 a v s)) ∧
        (dev.shortFits a.toNat = true →
          ∀ w, ∃ t, memWrite16 a w s = .ok t ∧ t.bus.devs = s.bus.devs ∧ logsOne .write a w s t)) ∧
    ∀ d dev u own before after, s.bus.deviceAt a = some (d, dev) → dev.body = .peripheral u own before after →
      (memRead8 a s).1 = (Config.peripheralRead8 u own a).1 ∧
        (memRead8 a s).2.bus.devs =
          s.bus.devs.set d { dev with body := .peripheral u (Config.peripheralRead8 u own a).2 before after } ∧
        logsOne .read a ((memRead8 a s).1.setWidth 16) s (memRead8 a s).2 ∧
        (∀ v, (memWrite8 a v s).bus.devs =
            s.bus.devs.set d { dev with body := .peripheral u (Config.peripheralWrite8 u own a v) before after } ∧
          logsOne .write a (v.setWidth 16) s (memWrite8 a v s)) ∧
        (dev.shortFits a.toNat = true →
          (∃ w t, memRead16 a s = .ok (w, t) ∧ w = (Config.peripheralRead16 u own a).1 ∧
            t.bus.devs =
              s.bus.devs.set d { dev with body := .peripheral u (Config.peripheralRead16 u own a).2 before after } ∧
            logsOne .read a w s t) ∧
          ∀ w, ∃ t, memWrite16 a w s = .ok t ∧
            t.bus.devs =
              s.bus.devs.set d { dev with body := .peripheral u (Config.peripheralWrite16 u own a w) before after } ∧
            logsOne .write a w s t)

/-- A short moves its low byte at a and its high byte at a + 1, as byte accesses see them (20_memory.md R75). -/
def Obligations.ShortsAreLittleEndian : Prop :=
  ∀ (s t : State) (a : BusAddr) (w : Word), s.bus.wf = true → memWrite16 a w s = .ok t → s.sameOwner a (a + 1) →
    s.isRam a = true → s.isRam (a + 1) = true →
    (memRead8 a t).1 = w.extractLsb' 0 8 ∧ (memRead8 (a + 1) t).1 = w.extractLsb' 8 8 ∧
      (∃ u, memRead16 a t = .ok (w, u)) ∧ keepsMemory [a, a + 1] s t

/-- A short whose second byte is past its device faults, in a memory access, in each instruction that makes one, and
in a fetch. The fault is the spec's own decision 92_eei_decisions.md D26, and R76, R311 and R340 its inferences; that
it covers peripherals and ROM writes is log 10, completion at an address below a device's base log 11, the machine a
fault carries log 14, BRK's order log 25 (20_memory.md R65, R67, R69, R76, R77; 30_encoding.md R104, R110;
60_exceptions.md R311; 70_reset_and_hazards.md R340). -/
def Obligations.ShortPastItsDeviceFaults : Prop :=
  (∀ (s : State) (a : BusAddr) (w : Word),
    (∀ d dev, s.bus.deviceAt a = some (d, dev) → dev.base + dev.size ≤ a.toNat + 1 →
      s.bus.shortFits a = false ∧ memRead16 a s = .error (.shortPastDevice s) ∧
        memWrite16 a w s = .error (.shortPastDevice s)) ∧
    (∀ d dev, s.bus.deviceAt a = some (d, dev) → a.toNat + 1 < dev.base + dev.size →
      s.bus.shortFits a = true ∧ (∃ r, memRead16 a s = .ok r) ∧ ∃ t, memWrite16 a w s = .ok t) ∧
    (s.bus.deviceAt a = none →
      s.bus.shortFits a = true ∧ (∃ r, memRead16 a s = .ok r) ∧ ∃ t, memWrite16 a w s = .ok t)) ∧
    ∀ s : State,
      (∀ i o p, i.operand = some o → o.pointer s = some p → (∀ zz, o = .indX zz → s.regWritten .x = true) →
        s.bus.shortFits p = false → exec i s = .fault (.shortPastDevice s)) ∧
      (∀ addr, s.bus.shortFits (stackAddr s.cfg (s.sp - 2)) = false →
        exec (.jsr addr) s = .fault (.shortPastDevice { s with addrLatch := addr.setWidth 17, sp := s.sp - 2 })) ∧
      (s.bus.shortFits (stackAddr s.cfg s.sp) = false → exec .rts s = .fault (.shortPastDevice s)) ∧
      (s.bus.shortFits (stackAddr s.cfg (s.sp + 1)) = false →
        ∃ st u, memRead8 (stackAddr s.cfg s.sp) s = (st, u) ∧
          exec .rti s = .fault (.shortPastDevice ((u.setP st).setSp (s.sp + 1)))) ∧
      (s.bus.shortFits (stackAddr s.cfg (s.sp - 2)) = false → s.statusReadable →
        exec .brk s = .fault (.shortPastDevice { s with sp := s.sp - 2 })) ∧
      (s.bus.shortFits (stackAddr s.cfg (s.sp - 2)) = true → s.statusReadable →
        s.bus.shortFits (s.cfg.brkVector.setWidth 17) = false →
        ∃ s1, push16 (s.pc + 1) s = .ok s1 ∧
          exec .brk s = .fault (.shortPastDevice ((push8 (s.p ||| s.cfg.phpMask) s1).setFlag .i true))) ∧
      (∀ opc u, s.pending = 0 → fetch8 (busReset s) = (opc, u) → descriptor s.cfg opc ≠ none → instrLength opc = 3 →
        s.bus.shortFits ((s.pc + 1).setWidth 17) = false →
        step s = .fault (.shortPastDevice (u.setOpcode opc)))

/-- A registration inside the 16-bit space is accepted and maps only the free addresses; one outside it is refused.
The refusal and the clock order are the spec's own decisions 92_eei_decisions.md D30 and D25; the base after a second
registerAuto is log 21, and after registerAtOffset D25 and log 17 (20_memory.md R52, R53, R54, R55, R56). -/
def Obligations.FirstRegistrationWins : Prop :=
  ∀ (b : Bus) (first d : Nat) (dev : Device), b.devs[d]? = some dev →
    (0x10000 < first + dev.size → registerAuto first d b = .error .addressOutOfRange) ∧
      (first + dev.size ≤ 0x10000 → ∃ r, registerAuto first d b = .ok r ∧ Registers b d first dev.size r ∧
        r.bus.devs = b.devs.set d { dev with base := first }) ∧
      (0x10000 ≤ first → registerAtOffset first d b = .error .addressOutOfRange) ∧
      (first < 0x10000 → ∃ r, registerAtOffset first d b = .ok r ∧ Registers b d first 1 r ∧ r.bus.devs = b.devs)

/-- A bulk load replaces a ROM's whole store, sets a RAM's first bytes, reads back, and is refused when it is too
large. ROM_FILL past the image is the spec's own decision 92_eei_decisions.md D36; 0x00 past the end of the fill given
is log 3; the load of a RAM and the refusal of a peripheral are log 20 (20_memory.md R61, R64; 60_exceptions.md R306).
-/
def Obligations.RomImageReadsBack : Prop :=
  ∀ (b : Bus) (d : Nat) (dev : Device) (fill image : List Byte), b.devs[d]? = some dev →
    (dev.size < image.length → loadImage fill d image b = .error .imageTooLarge) ∧
      (image.length ≤ dev.size →
        (∀ m : Memory, dev.body = .rom m → ∃ m' : Memory,
          loadImage fill d image b = .ok (b.setBody d (.rom m')) ∧ m'.wf = true ∧ m'.within dev.size = true ∧
          (∀ k < dev.size, m'.get k = match image[k]? with | some v => v | none => fill[k]?.getD 0x00#8) ∧
          ∀ (s : State) (k : Nat) (v : Byte) (a : BusAddr), s.bus = b.setBody d (.rom m') → image[k]? = some v →
            b.owner a.toNat = some d → a.toNat = dev.base + k →
            (memRead8 a s).1 = v ∧ ∀ w, (memRead8 a (memWrite8 a w s)).1 = v) ∧
        (∀ m : Memory, dev.body = .ram m → m.wf = true → ∃ m' : Memory,
          loadImage fill d image b = .ok (b.setBody d (.ram m')) ∧ m'.wf = true ∧
          ∀ k, m'.get k = match image[k]? with | some v => v | none => m.get k) ∧
        ∀ u own before after, dev.body = .peripheral u own before after →
          loadImage fill d image b = .error .notStorage)

/-- LDA, LDX and LDY load the operand, set N and Z, and change nothing else (41_load_store.md R170, R171, R172). -/
def Obligations.LoadResults : Prop :=
  Mnemonic.lda.opcodes = [(.indX, 0xA1#8), (.zp, 0xA5#8), (.imm, 0xA9#8), (.abs, 0xAD#8), (.indY, 0xB1#8),
      (.zpX, 0xB5#8), (.absY, 0xB9#8), (.absX, 0xBD#8)] ∧
    Mnemonic.ldx.opcodes = [(.imm, 0xA2#8), (.zp, 0xA6#8), (.abs, 0xAE#8), (.zpY, 0xB6#8), (.absY, 0xBE#8)] ∧
    Mnemonic.ldy.opcodes = [(.imm, 0xA0#8), (.zp, 0xA4#8), (.abs, 0xAC#8), (.zpX, 0xB4#8), (.absX, 0xBC#8)] ∧
    ∀ (i : Instr) (r : Reg) (o : Operand) (s : State),
      (i.mnemonic, r) ∈ Mnemonic.loads → i.operand = some o → o.ready s = true →
      ∃ v t, resolve o s = .ok v ∧ exec i s = .next t ∧ t.holds r (readOperand o v).1 ∧ t.nzOf (readOperand o v).1 ∧
        endsWithCost t (baseCost s.cfg i.opcode + if v.crossed then 1 else 0) ∧ t.sp = s.sp ∧ t.pc = s.pc ∧
        t.addrLatch = v.value ∧ t.bus = (readOperand o v).2.bus ∧ Frame [r] [.z, .n] [] s t

/-- STA, STX and STY store the register at the effective address and change nothing else. That a store sets no flag is
the spec's own decision 92_eei_decisions.md D17 (41_load_store.md R173, R174, R175, R176). -/
def Obligations.StoreResults : Prop :=
  Mnemonic.sta.opcodes = [(.indX, 0x81#8), (.zp, 0x85#8), (.abs, 0x8D#8), (.indY, 0x91#8), (.zpX, 0x95#8),
      (.absY, 0x99#8), (.absX, 0x9D#8)] ∧
    Mnemonic.stx.opcodes = [(.zp, 0x86#8), (.abs, 0x8E#8), (.zpY, 0x96#8)] ∧
    Mnemonic.sty.opcodes = [(.zp, 0x84#8), (.abs, 0x8C#8), (.zpX, 0x94#8)] ∧
    Config.taken.storeSetsNZ = false ∧
    ∀ (i : Instr) (r : Reg) (o : Operand) (s : State),
      (i.mnemonic, r) ∈ Mnemonic.stores → i.operand = some o → o.ready s = true → s.regWritten r = true →
      ∃ v t, resolve o s = .ok v ∧ exec i s = .next t ∧ logsOne .write v.value ((s.reg r).setWidth 16) v.state t ∧
        t.bus = (memWrite8 v.value (s.reg r) v.state).bus ∧
        (s.bus.wf = true → t.peek v.value = storedAs s v.value (s.reg r)) ∧
        (s.cfg.storeSetsNZ = true → t.nzOf (s.reg r)) ∧ endsWithCost t (baseCost s.cfg i.opcode) ∧ t.sp = s.sp ∧
        t.pc = s.pc ∧ t.addrLatch = v.value ∧
        Frame [] (if s.cfg.storeSetsNZ then [.z, .n] else []) [v.value] s t

/-- TAX, TAY, TXA, TYA and TSX copy a register with N and Z; TXS copies X to SP with no flag; nothing else changes.
The cost is the entry of P_CYCLES, which is the 2 the rule returns unless the launch changes it (log 19)
(42_transfer_stack.md R185, R186, R187, R188, R189, R190). -/
def Obligations.TransferResults : Prop :=
  (∀ (i : Instr) (src dst : Reg) (opc : Byte),
    (i, src, dst, opc) ∈ [(Instr.tax, Reg.a, Reg.x, 0xAA#8), (.tay, .a, .y, 0xA8#8), (.txa, .x, .a, 0x8A#8),
      (.tya, .y, .a, 0x98#8)] →
    encode i = [opc] ∧ ∀ s : State, s.regWritten src = true →
      ∃ t, exec i s = .next t ∧ t.holds dst (s.reg src) ∧ t.nzOf (s.reg src) ∧ endsWithFixedCost s t opc 2 ∧
        t.sp = s.sp ∧ t.pc = s.pc ∧ t.addrLatch = s.addrLatch ∧ logsNone s t ∧ Frame [dst] [.z, .n] [] s t) ∧
    encode .tsx = [0xBA#8] ∧ encode .txs = [0x9A#8] ∧
    (∀ s : State, ∃ t, exec .tsx s = .next t ∧ t.holds .x s.sp ∧ t.nzOf s.sp ∧ endsWithFixedCost s t 0xBA#8 2 ∧
      t.sp = s.sp ∧ t.pc = s.pc ∧ t.addrLatch = s.addrLatch ∧ logsNone s t ∧ Frame [.x] [.z, .n] [] s t) ∧
    ∀ s : State, s.regWritten .x = true → ∃ t, exec .txs s = .next t ∧ t.sp = s.x ∧
      endsWithFixedCost s t 0x9A#8 2 ∧ t.pc = s.pc ∧ t.addrLatch = s.addrLatch ∧ logsNone s t ∧ Frame [] [] [] s t

/-- PHA and PHP decrement SP, then write the byte at the new SP; PHP's copy has the mask ORed in. The stack page and
the mask are the spec's own decisions 92_eei_decisions.md D4 and D19. The cost is the entry of P_CYCLES, which is the
3 the rule returns unless the launch changes it (log 19) (42_transfer_stack.md R180, R181, R191, R192). -/
def Obligations.PushResults : Prop :=
  encode .pha = [0x48#8] ∧ encode .php = [0x08#8] ∧ Config.taken.phpMask = 0x30#8 ∧
    (∀ (s : State) (b : Byte), (stackAddr s.cfg b).toNat = s.cfg.stackPage.toNat * 256 + b.toNat) ∧
    ∀ (i : Instr) (opc b : Byte) (s : State),
      ((i = .pha ∧ opc = 0x48#8 ∧ b = s.a ∧ s.regWritten .a = true) ∨
        (i = .php ∧ opc = 0x08#8 ∧ b = s.p ||| s.cfg.phpMask ∧ s.statusReadable)) →
      ∃ t, exec i s = .next t ∧ t.sp = s.sp - 1 ∧
        logsOne .write (stackAddr s.cfg (s.sp - 1)) (b.setWidth 16) s t ∧
        t.bus = (memWrite8 (stackAddr s.cfg (s.sp - 1)) b s).bus ∧
        (s.bus.wf = true → t.peek (stackAddr s.cfg (s.sp - 1)) = storedAs s (stackAddr s.cfg (s.sp - 1)) b) ∧
        endsWithFixedCost s t opc 3 ∧ t.pc = s.pc ∧ t.addrLatch = s.addrLatch ∧
        Frame [] [] [stackAddr s.cfg (s.sp - 1)] s t

/-- PLA and PLP read the byte at SP, then decrement SP; PLA sets N and Z, PLP loads all of P. The stack page and what
PLP loads are the spec's own decisions 92_eei_decisions.md D4 and D19. The cost is the entry of P_CYCLES, which is the
4 the rule returns unless the launch changes it (log 19) (42_transfer_stack.md R193, R194). -/
def Obligations.PullResults : Prop :=
  encode .pla = [0x68#8] ∧ encode .plp = [0x28#8] ∧
    (∀ s : State, ∃ m t, m = (memRead8 (stackAddr s.cfg s.sp) s).1 ∧ exec .pla s = .next t ∧ t.holds .a m ∧ t.nzOf m ∧
      t.sp = s.sp - 1 ∧ endsWithFixedCost s t 0x68#8 4 ∧ t.pc = s.pc ∧ t.addrLatch = s.addrLatch ∧
      logsOne .read (stackAddr s.cfg s.sp) (m.setWidth 16) s t ∧
      t.bus = (memRead8 (stackAddr s.cfg s.sp) s).2.bus ∧ Frame [.a] [.z, .n] [] s t) ∧
    (∀ s : State, ∃ m t, m = (memRead8 (stackAddr s.cfg s.sp) s).1 ∧ exec .plp s = .next t ∧ t.p = m ∧
      t.written.p = 0xFF#8 ∧ t.sp = s.sp - 1 ∧ endsWithFixedCost s t 0x28#8 4 ∧ t.pc = s.pc ∧
      t.addrLatch = s.addrLatch ∧ logsOne .read (stackAddr s.cfg s.sp) (m.setWidth 16) s t ∧
      t.bus = (memRead8 (stackAddr s.cfg s.sp) s).2.bus ∧
      Frame [] Flag.all [] s t)

/-- A push and a pull give the byte back but lower SP by two; a second pull reads below the second push. The
consequences are marked in R182 as the spec's own inference, from R181 and R182 (42_transfer_stack.md R182). -/
def Obligations.PushPullAsymmetry : Prop :=
  ∀ (s : State) (b1 b2 : Byte), s.bus.wf = true →
    (∀ m, s.peek (stackAddr s.cfg s.sp) = some m → (pull8q s).1 = m) ∧ (pull8q s).2.sp = s.sp - 1 ∧
      logsOne .read (stackAddr s.cfg s.sp) ((pull8q s).1.setWidth 16) s (pull8q s).2 ∧
      (s.isRam (stackAddr s.cfg (s.sp - 1)) = true →
        (pull8q (push8 b1 s)).1 = b1 ∧ (pull8q (push8 b1 s)).2.sp = s.sp - 2) ∧
      (s.isRam (stackAddr s.cfg (s.sp - 2)) = true →
        (pull8q (push8 b2 (push8 b1 s))).1 = b2 ∧
          (pull8q (pull8q (push8 b2 (push8 b1 s))).2).2.sp = s.sp - 4 ∧
          ∀ m, s.peek (stackAddr s.cfg (s.sp - 3)) = some m →
            (pull8q (pull8q (push8 b2 (push8 b1 s))).2).1 = m)

/-- ADC adds A, the operand and C exactly, reduces modulo 256, and sets C, V, N and Z (43_arith_logic.md R200). -/
def Obligations.AddWithCarry : Prop :=
  Mnemonic.adc.opcodes = [(.indX, 0x61#8), (.zp, 0x65#8), (.imm, 0x69#8), (.abs, 0x6D#8), (.indY, 0x71#8),
      (.zpX, 0x75#8), (.absY, 0x79#8), (.absX, 0x7D#8)] ∧
    ∀ (i : Instr) (o : Operand) (s : State),
      i.mnemonic = .adc → i.operand = some o → o.ready s = true → s.flagWritten .d = true → ¬ s.decimalDraws →
      s.regWritten .a = true → s.flagWritten .c = true →
      ∃ v t m r, resolve o s = .ok v ∧ m = (readOperand o v).1 ∧ exec i s = .next t ∧
        r.toNat = (s.a.toNat + m.toNat + (s.flag .c).toNat) % 256 ∧ t.holds .a r ∧ t.nzOf r ∧
        t.flagIs .c (decide (0xFF < s.a.toNat + m.toNat + (s.flag .c).toNat)) ∧
        t.flagIs .v ((~~~(s.a ^^^ m) &&& (s.a ^^^ r)).getLsbD 7) ∧
        endsWithCost t (baseCost s.cfg i.opcode + if v.crossed then 1 else 0) ∧ t.sp = s.sp ∧ t.pc = s.pc ∧
        t.addrLatch = v.value ∧ t.bus = (readOperand o v).2.bus ∧ Frame [.a] [.c, .z, .v, .n] [] s t

/-- SBC subtracts the operand and the borrow exactly, reduces modulo 256, and sets C, V, N and Z (43_arith_logic.md
R202). -/
def Obligations.SubtractWithBorrow : Prop :=
  Mnemonic.sbc.opcodes = [(.indX, 0xE1#8), (.zp, 0xE5#8), (.imm, 0xE9#8), (.abs, 0xED#8), (.indY, 0xF1#8),
      (.zpX, 0xF5#8), (.absY, 0xF9#8), (.absX, 0xFD#8)] ∧
    (∀ (a m : Byte) (c : Bool), sbcResult a m c = adcResult a (~~~m) c) ∧
    ∀ (i : Instr) (o : Operand) (s : State),
      i.mnemonic = .sbc → i.operand = some o → o.ready s = true → s.flagWritten .d = true → ¬ s.decimalDraws →
      s.regWritten .a = true → s.flagWritten .c = true →
      ∃ v t m r, ∃ d : Int, resolve o s = .ok v ∧ m = (readOperand o v).1 ∧ exec i s = .next t ∧
        d = (s.a.toNat : Int) - m.toNat - (1 - (s.flag .c).toNat) ∧ (r.toNat : Int) = d % 256 ∧ t.holds .a r ∧
        t.nzOf r ∧ t.flagIs .c (decide (0 ≤ d)) ∧ t.flagIs .v (((s.a ^^^ m) &&& (s.a ^^^ r)).getLsbD 7) ∧
        endsWithCost t (baseCost s.cfg i.opcode + if v.crossed then 1 else 0) ∧ t.sp = s.sp ∧ t.pc = s.pc ∧
        t.addrLatch = v.value ∧ t.bus = (readOperand o v).2.bus ∧ Frame [.a] [.c, .z, .v, .n] [] s t

/-- With D set under DRAW, ADC and SBC complete with five free values in A, C, Z, V and N and nothing else changed.
That the results are draws and the instruction completes is the spec's own decision 92_eei_decisions.md D18; the five
free values are log 5 (43_arith_logic.md R200, R201, R202). -/
def Obligations.DecimalAddAndSubtract : Prop :=
  ∀ (i : Instr) (o : Operand) (s : State),
    i.mnemonic ∈ [.adc, .sbc] → i.operand = some o → o.ready s = true → s.flagWritten .d = true → s.decimalDraws →
    ∃ v t k, resolve o s = .ok v ∧ exec i s = .next t ∧ t.holds .a (Config.draw8 k) ∧
      t.flagIs .c (Config.drawFlag (k + 1)) ∧ t.flagIs .z (Config.drawFlag (k + 2)) ∧
      t.flagIs .v (Config.drawFlag (k + 3)) ∧ t.flagIs .n (Config.drawFlag (k + 4)) ∧
      k + 5 ≤ t.draws ∧ s.draws ≤ k ∧
      endsWithCost t (baseCost s.cfg i.opcode + if v.crossed then 1 else 0) ∧ t.sp = s.sp ∧ t.pc = s.pc ∧
      t.addrLatch = v.value ∧ t.bus = (readOperand o v).2.bus ∧ Frame [.a] [.c, .z, .v, .n] [] s t

/-- AND, ORA and EOR combine A with the operand bit by bit and set N and Z (43_arith_logic.md R203, R204, R205). -/
def Obligations.LogicResults : Prop :=
  Mnemonic.and.opcodes = [(.indX, 0x21#8), (.zp, 0x25#8), (.imm, 0x29#8), (.abs, 0x2D#8), (.indY, 0x31#8),
      (.zpX, 0x35#8), (.absY, 0x39#8), (.absX, 0x3D#8)] ∧
    Mnemonic.ora.opcodes = [(.indX, 0x01#8), (.zp, 0x05#8), (.imm, 0x09#8), (.abs, 0x0D#8), (.indY, 0x11#8),
      (.zpX, 0x15#8), (.absY, 0x19#8), (.absX, 0x1D#8)] ∧
    Mnemonic.eor.opcodes = [(.indX, 0x41#8), (.zp, 0x45#8), (.imm, 0x49#8), (.abs, 0x4D#8), (.indY, 0x51#8),
      (.zpX, 0x55#8), (.absY, 0x59#8), (.absX, 0x5D#8)] ∧
    ∀ (i : Instr) (o : Operand) (s : State),
      i.mnemonic ∈ [.and, .ora, .eor] → i.operand = some o → o.ready s = true → s.regWritten .a = true →
      ∃ v t m r, resolve o s = .ok v ∧ m = (readOperand o v).1 ∧ exec i s = .next t ∧
        (i.mnemonic = .and → r = s.a &&& m) ∧ (i.mnemonic = .ora → r = s.a ||| m) ∧
        (i.mnemonic = .eor → r = s.a ^^^ m) ∧ t.holds .a r ∧ t.nzOf r ∧
        endsWithCost t (baseCost s.cfg i.opcode + if v.crossed then 1 else 0) ∧ t.sp = s.sp ∧ t.pc = s.pc ∧
        t.addrLatch = v.value ∧ t.bus = (readOperand o v).2.bus ∧ Frame [.a] [.z, .n] [] s t

/-- BIT sets Z from A & m and N and V from bits 7 and 6 of m, and changes no register (43_arith_logic.md R206). -/
def Obligations.BitTestResults : Prop :=
  Mnemonic.bit.opcodes = [(.zp, 0x24#8), (.abs, 0x2C#8)] ∧
    ∀ (i : Instr) (o : Operand) (s : State),
      i.mnemonic = .bit → i.operand = some o → s.regWritten .a = true →
      ∃ v t m, resolve o s = .ok v ∧ m = (memRead8 v.value v.state).1 ∧ exec i s = .next t ∧
        t.flagIs .z (s.a &&& m == 0#8) ∧ t.flagIs .n (m.getLsbD 7) ∧ t.flagIs .v (m.getLsbD 6) ∧
        endsWithCost t (baseCost s.cfg i.opcode) ∧ t.sp = s.sp ∧ t.pc = s.pc ∧ t.addrLatch = v.value ∧
        logsOne .read v.value (m.setWidth 16) s t ∧ t.bus = (memRead8 v.value v.state).2.bus ∧ Frame [] [.z, .v, .n] [] s t

/-- CMP, CPX and CPY set C, Z and N from the register less the operand and change no register (43_arith_logic.md R207,
R208, R209). -/
def Obligations.CompareResults : Prop :=
  Mnemonic.cmp.opcodes = [(.indX, 0xC1#8), (.zp, 0xC5#8), (.imm, 0xC9#8), (.abs, 0xCD#8), (.indY, 0xD1#8),
      (.zpX, 0xD5#8), (.absY, 0xD9#8), (.absX, 0xDD#8)] ∧
    Mnemonic.cpx.opcodes = [(.imm, 0xE0#8), (.zp, 0xE4#8), (.abs, 0xEC#8)] ∧
    Mnemonic.cpy.opcodes = [(.imm, 0xC0#8), (.zp, 0xC4#8), (.abs, 0xCC#8)] ∧
    ∀ (i : Instr) (r : Reg) (o : Operand) (s : State),
      (i.mnemonic, r) ∈ Mnemonic.compares → i.operand = some o → o.ready s = true → s.regWritten r = true →
      ∃ v t m, resolve o s = .ok v ∧ m = (readOperand o v).1 ∧ exec i s = .next t ∧
        t.flagIs .c (decide (m.toNat ≤ (s.reg r).toNat)) ∧ t.flagIs .z (s.reg r == m) ∧
        t.flagIs .n (decide (128 ≤ ((s.reg r).toNat + 256 - m.toNat) % 256)) ∧
        endsWithCost t (baseCost s.cfg i.opcode + if v.crossed then 1 else 0) ∧
        (r ≠ .a → v.crossed = false) ∧ t.sp = s.sp ∧ t.pc = s.pc ∧ t.addrLatch = v.value ∧
        t.bus = (readOperand o v).2.bus ∧ Frame [] [.c, .z, .n] [] s t

/-- INC and DEC read a byte, write it plus or minus one modulo 256, and set N and Z (43_arith_logic.md R210, R211). -/
def Obligations.IncrementAndDecrementMemory : Prop :=
  Mnemonic.inc.opcodes = [(.zp, 0xE6#8), (.abs, 0xEE#8), (.zpX, 0xF6#8), (.absX, 0xFE#8)] ∧
    Mnemonic.dec.opcodes = [(.zp, 0xC6#8), (.abs, 0xCE#8), (.zpX, 0xD6#8), (.absX, 0xDE#8)] ∧
    ∀ (i : Instr) (o : Operand) (s : State),
      i.mnemonic ∈ [.inc, .dec] → i.operand = some o → o.ready s = true →
      ∃ v t m r, resolve o s = .ok v ∧ m = (memRead8 v.value v.state).1 ∧ exec i s = .next t ∧
        (i.mnemonic = .inc → r.toNat = (m.toNat + 1) % 256) ∧
        (i.mnemonic = .dec → r.toNat = (m.toNat + 255) % 256) ∧ t.nzOf r ∧
        (s.bus.wf = true → t.peek v.value = storedAs s v.value r) ∧
        t.bus.log = s.bus.log ++ [⟨.read, v.value, m.setWidth 16, s.bus.seq⟩,
          ⟨.write, v.value, r.setWidth 16, s.bus.seq + 1⟩] ∧
        t.bus = (memWrite8 v.value r (memRead8 v.value v.state).2).bus ∧
        endsWithCost t (baseCost s.cfg i.opcode) ∧ t.sp = s.sp ∧ t.pc = s.pc ∧ t.addrLatch = v.value ∧
        Frame [] [.z, .n] [v.value] s t

/-- INX, INY, DEX and DEY step the register modulo 256 and set N and Z. The cost is the entry of P_CYCLES, which is
the 2 the rule returns unless the launch changes it (log 19) (43_arith_logic.md R212, R213, R214, R215). -/
def Obligations.IncrementAndDecrementRegisters : Prop :=
  ∀ (i : Instr) (r : Reg) (opc : Byte) (k : Nat),
    (i, r, opc, k) ∈ [(Instr.inx, Reg.x, 0xE8#8, 1), (.iny, .y, 0xC8#8, 1), (.dex, .x, 0xCA#8, 255),
      (.dey, .y, 0x88#8, 255)] →
    encode i = [opc] ∧ ∀ s : State, s.regWritten r = true →
      ∃ t n, exec i s = .next t ∧ n.toNat = ((s.reg r).toNat + k) % 256 ∧ t.holds r n ∧ t.nzOf n ∧
        endsWithFixedCost s t opc 2 ∧ t.sp = s.sp ∧ t.pc = s.pc ∧ t.addrLatch = s.addrLatch ∧ logsNone s t ∧
        Frame [r] [.z, .n] [] s t

/-- ASL, LSR, ROL and ROR of A shift one place through C, set N and Z, and make no bus access (44_shift_rotate.md
R230, R231, R232, R233, R234). -/
def Obligations.AccumulatorShifts : Prop :=
  ∀ (i : Instr) (s : State), i.mnemonic ∈ Mnemonic.shifts → i.operand = none → s.regWritten .a = true →
    s.carryReadable i.mnemonic →
    ∃ t r, exec i s = .next t ∧ r.toNat = shiftResult s.cfg i.mnemonic s.a (s.flag .c) ∧ t.holds .a r ∧ t.nzOf r ∧
      t.flagIs .c (shiftCarry i.mnemonic s.a) ∧ (i.mnemonic = .lsr → t.flag .n = false) ∧
      endsWithFixedCost s t i.opcode 2 ∧ t.sp = s.sp ∧ t.pc = s.pc ∧ t.addrLatch = s.addrLatch ∧ logsNone s t ∧
      Frame [.a] [.c, .z, .n] [] s t

/-- ASL, LSR, ROL and ROR of memory read a byte, write its shift, and set C, N and Z (44_shift_rotate.md R230, R231,
R232, R233, R234). -/
def Obligations.MemoryShifts : Prop :=
  Mnemonic.asl.opcodes = [(.zp, 0x06#8), (.acc, 0x0A#8), (.abs, 0x0E#8), (.zpX, 0x16#8), (.absX, 0x1E#8)] ∧
    Mnemonic.lsr.opcodes = [(.zp, 0x46#8), (.acc, 0x4A#8), (.abs, 0x4E#8), (.zpX, 0x56#8), (.absX, 0x5E#8)] ∧
    Mnemonic.rol.opcodes = [(.zp, 0x26#8), (.acc, 0x2A#8), (.abs, 0x2E#8), (.zpX, 0x36#8), (.absX, 0x3E#8)] ∧
    Mnemonic.ror.opcodes = [(.zp, 0x66#8), (.acc, 0x6A#8), (.abs, 0x6E#8), (.zpX, 0x76#8), (.absX, 0x7E#8)] ∧
    ∀ (i : Instr) (o : Operand) (s : State), i.mnemonic ∈ Mnemonic.shifts → i.operand = some o → o.ready s = true →
      s.carryReadable i.mnemonic →
      ∃ v t m r, resolve o s = .ok v ∧ m = (memRead8 v.value v.state).1 ∧ exec i s = .next t ∧
        r.toNat = shiftResult s.cfg i.mnemonic m (s.flag .c) ∧ t.nzOf r ∧
        t.flagIs .c (shiftCarry i.mnemonic m) ∧ (i.mnemonic = .lsr → t.flag .n = false) ∧
        (s.bus.wf = true → t.peek v.value = storedAs s v.value r) ∧
        t.bus.log = s.bus.log ++ [⟨.read, v.value, m.setWidth 16, s.bus.seq⟩,
          ⟨.write, v.value, r.setWidth 16, s.bus.seq + 1⟩] ∧
        t.bus = (memWrite8 v.value r (memRead8 v.value v.state).2).bus ∧
        endsWithCost t (baseCost s.cfg i.opcode) ∧ t.sp = s.sp ∧ t.pc = s.pc ∧ t.addrLatch = v.value ∧
        Frame [] [.c, .z, .n] [v.value] s t

/-- JMP puts the resolved value in PC and changes nothing else; the indirect form takes it through one short read.
Where the high byte of the pointer lies is the spec's own decision 92_eei_decisions.md D14 (45_control.md R240). -/
def Obligations.JumpResults : Prop :=
  Mnemonic.jmp.opcodes = [(.abs, 0x4C#8), (.ind, 0x6C#8)] ∧
    (∀ (addr : Word) (s : State), ∃ t, exec (.jmpAbs addr) s = .next t ∧ t.pc = addr ∧
      t.addrLatch = addr.setWidth 17 ∧ endsWithFixedCost s t 0x4C#8 3 ∧ t.sp = s.sp ∧ logsNone s t ∧
      Frame [] [] [] s t) ∧
    (∀ (addr : Word) (s : State), s.bus.shortFits (addr.setWidth 17) = true →
      ∃ w u t, memRead16 (addr.setWidth 17) s = .ok (w, u) ∧ exec (.jmpInd addr) s = .next t ∧ t.pc = w ∧
        t.addrLatch = w.setWidth 17 ∧ endsWithFixedCost s t 0x6C#8 5 ∧ t.sp = s.sp ∧
        logsOne .read (addr.setWidth 17) w s t ∧ t.bus = u.bus ∧ Frame [] [] [] s t)

/-- JSR pushes the biased return address as one short at SP - 2, and jumps. The order, the place of the high byte and
the bias are the spec's own decisions 92_eei_decisions.md D7, D8 and D9. The cost is the entry of P_CYCLES, which is
the 6 the rule returns unless the launch changes it (log 19) (42_transfer_stack.md R183; 45_control.md R241). -/
def Obligations.JumpToSubroutine : Prop :=
  Mnemonic.jsr.opcodes = [(.abs, 0x20#8)] ∧ Config.taken.jsrRetBias = 1#16 ∧
    ∀ (addr : Word) (s : State), s.bus.shortFits (stackAddr s.cfg (s.sp - 2)) = true →
      ∃ u t, push16 (s.pc - s.cfg.jsrRetBias) s = .ok u ∧ exec (.jsr addr) s = .next t ∧ t.bus = u.bus ∧ t.pc = addr ∧ t.sp = s.sp - 2 ∧ t.addrLatch = addr.setWidth 17 ∧
        logsOne .write (stackAddr s.cfg (s.sp - 2)) (s.pc - s.cfg.jsrRetBias) s t ∧
        (s.bus.wf = true → storesShort s t (stackAddr s.cfg (s.sp - 2)) (s.pc - s.cfg.jsrRetBias)) ∧
        endsWithFixedCost s t 0x20#8 6 ∧
        Frame [] [] [stackAddr s.cfg (s.sp - 2), stackAddr s.cfg (s.sp - 2) + 1] s t

/-- RTS reads the return address as one short at SP, adds the bias, and raises SP by two. The order and the bias are
the spec's own decisions 92_eei_decisions.md D7 and D9. The cost is the entry of P_CYCLES, which is the 6 the rule
returns unless the launch changes it (log 19) (42_transfer_stack.md R184; 45_control.md R242). -/
def Obligations.ReturnFromSubroutine : Prop :=
  encode .rts = [0x60#8] ∧
    (∀ s : State, s.bus.shortFits (stackAddr s.cfg s.sp) = true →
      ∃ w u t, memRead16 (stackAddr s.cfg s.sp) s = .ok (w, u) ∧ exec .rts s = .next t ∧
        t.pc = w + s.cfg.jsrRetBias ∧ t.sp = s.sp + 2 ∧ endsWithFixedCost s t 0x60#8 6 ∧ t.addrLatch = s.addrLatch ∧
        logsOne .read (stackAddr s.cfg s.sp) w s t ∧ t.bus = u.bus ∧ Frame [] [] [] s t) ∧
    ∀ (addr : Word) (s t t' : State), s.bus.wf = true →
      s.isRam (stackAddr s.cfg (s.sp - 2)) = true → s.isRam (stackAddr s.cfg (s.sp - 2) + 1) = true →
      s.sameOwner (stackAddr s.cfg (s.sp - 2)) (stackAddr s.cfg (s.sp - 2) + 1) →
      exec (.jsr addr) s = .next t → t'.cfg = t.cfg → t'.sp = t.sp →
      t'.peek16 (stackAddr s.cfg (s.sp - 2)) = t.peek16 (stackAddr s.cfg (s.sp - 2)) →
      ∃ u, exec .rts t' = .next u ∧ u.pc = s.pc ∧ u.sp = s.sp

/-- The eight branches test one flag; taken, PC is the branch target; no flag, register or byte changes. The page test
of pc_next and target with the same divisor is the spec's own decision 92_eei_decisions.md D11; costs that no P_CYCLES
changes are log 19 (45_control.md R244, R245, R246, R247, R248, R249, R250, R251, R252, R253). -/
def Obligations.BranchResults : Prop :=
  (∀ (m : Mnemonic) (opc : Byte),
    (m, opc) ∈ [(Mnemonic.bpl, 0x10#8), (.bmi, 0x30#8), (.bvc, 0x50#8), (.bvs, 0x70#8), (.bcc, 0x90#8), (.bcs, 0xB0#8),
      (.bne, 0xD0#8), (.beq, 0xF0#8)] → m.opcodes = [(.rel, opc)]) ∧
    ∀ (i : Instr) (f : Flag) (on : Bool) (o : Operand) (s : State),
      (i.mnemonic, f, on) ∈ Mnemonic.branches → i.operand = some o → s.flagWritten f = true →
      ∃ t rr, o = .rel rr ∧ exec i s = .next t ∧
        (s.flag f = on → t.pc = branchTarget s.cfg s.pc rr ∧
          endsWithCost t (if s.pc.toNat / s.cfg.pageDivisor = t.pc.toNat / s.cfg.pageDivisor then 3 else 4)) ∧
        (s.flag f ≠ on → t.pc = s.pc ∧ endsWithCost t 2) ∧ t.sp = s.sp ∧ t.addrLatch.toNat = rr.toNat ∧
        logsNone s t ∧ Frame [] [] [] s t

/-- The branch target ORs the offset into PC under the value taken, never backward, never out of the block. The
widening of the offset is the spec's own decision 92_eei_decisions.md D10, and R339 its own inference from R243
(45_control.md R243; 70_reset_and_hazards.md R339). -/
def Obligations.BranchTargets : Prop :=
  Config.taken.branchMode = .orZext8 ∧
    ∀ (cfg : Config) (pc : Word) (rr : Byte),
      (cfg.branchMode = .orZext8 →
        branchTarget cfg pc rr = pc ||| rr.setWidth 16 ∧ pc.toNat ≤ (branchTarget cfg pc rr).toNat ∧
          (branchTarget cfg pc rr).toNat / 256 = pc.toNat / 256 ∧
          (branchTarget cfg pc rr = pc ↔ pc &&& rr.setWidth 16 = rr.setWidth 16)) ∧
      (cfg.branchMode = .orSext16 → branchTarget cfg pc rr = pc ||| rr.signExtend 16) ∧
      (cfg.branchMode = .addSigned →
        ((branchTarget cfg pc rr).toNat : Int) =
          ((pc.toNat : Int) + (if rr.toNat < 128 then (rr.toNat : Int) else rr.toNat - 256)) % 65536) ∧
      (pc ||| rr.setWidth 16 = pc + rr.signExtend 16 ↔ rr.toNat < 128 ∧ pc &&& rr.setWidth 16 = 0#16)

/-- BRK pushes its address + 2 and P with the mask, sets I, and takes PC from the BRK vector. BRK's effect and its
vector are the spec's own decision 92_eei_decisions.md D20. The cost is the entry of P_CYCLES, which is the 7 the rule
returns unless the launch changes it (log 19) (45_control.md R254). -/
def Obligations.BreakEntry : Prop :=
  encode .brk = [0x00#8] ∧ Config.taken.brkVector = 0xFFFE#16 ∧
    ∀ s : State, s.bus.shortFits (stackAddr s.cfg (s.sp - 2)) = true → s.statusReadable →
      s.bus.shortFits (s.cfg.brkVector.setWidth 17) = true →
      ∃ s1 s2 w t, push16 (s.pc + 1) s = .ok s1 ∧
        memRead16 (s.cfg.brkVector.setWidth 17) ((push8 (s.p ||| s.cfg.phpMask) s1).setFlag .i true) = .ok (w, s2) ∧
        exec .brk s = .next t ∧ t.bus = s2.bus ∧ t.pc = w ∧ t.sp = s.sp - 3 ∧ t.flagIs .i true ∧ endsWithFixedCost s t 0x00#8 7 ∧
        t.addrLatch = s.addrLatch ∧
        t.bus.log = s.bus.log ++ [⟨.write, stackAddr s.cfg (s.sp - 2), s.pc + 1, s.bus.seq⟩,
          ⟨.write, stackAddr s.cfg (s.sp - 3), (s.p ||| s.cfg.phpMask).setWidth 16, s.bus.seq + 1⟩,
          ⟨.read, s.cfg.brkVector.setWidth 17, w, s.bus.seq + 2⟩] ∧
        (s.bus.wf = true → storesShort s t (stackAddr s.cfg (s.sp - 2)) (s.pc + 1) ∧
          t.peek (stackAddr s.cfg (s.sp - 3)) =
            storedAs s (stackAddr s.cfg (s.sp - 3)) (s.p ||| s.cfg.phpMask)) ∧
        Frame [] [.i] [stackAddr s.cfg (s.sp - 2), stackAddr s.cfg (s.sp - 2) + 1, stackAddr s.cfg (s.sp - 3)] s t

/-- RTI restores all of P and then PC from the stack, and undoes BRK but for the mask bits. RTI's effect is the spec's
own decision 92_eei_decisions.md D21; that it writes B and bit 5 follows R27 and R255 where R25 names PLP alone (log
27). The cost is the entry of P_CYCLES, which is the 6 the rule returns unless the launch changes it (log 19)
(45_control.md R255; 60_exceptions.md R309). -/
def Obligations.ReturnFromInterrupt : Prop :=
  encode .rti = [0x40#8] ∧
    (∀ s : State, s.bus.shortFits (stackAddr s.cfg (s.sp + 1)) = true →
      ∃ st s1 w s2 t, memRead8 (stackAddr s.cfg s.sp) s = (st, s1) ∧
        memRead16 (stackAddr s.cfg (s.sp + 1)) ((s1.setP st).setSp (s.sp + 1)) = .ok (w, s2) ∧ exec .rti s = .next t ∧ t.bus = s2.bus ∧ t.p = st ∧
        t.written.p = 0xFF#8 ∧ t.pc = w ∧ t.sp = s.sp + 3 ∧ endsWithFixedCost s t 0x40#8 6 ∧
        t.addrLatch = s.addrLatch ∧
        t.bus.log = s.bus.log ++ [⟨.read, stackAddr s.cfg s.sp, st.setWidth 16, s.bus.seq⟩,
          ⟨.read, stackAddr s.cfg (s.sp + 1), w, s.bus.seq + 1⟩] ∧ Frame [] Flag.all [] s t) ∧
    ∀ s t t' : State, s.bus.wf = true → s.isRam (stackAddr s.cfg (s.sp - 2)) = true →
      s.isRam (stackAddr s.cfg (s.sp - 2) + 1) = true →
      s.sameOwner (stackAddr s.cfg (s.sp - 2)) (stackAddr s.cfg (s.sp - 2) + 1) →
      s.isRam (stackAddr s.cfg (s.sp - 3)) = true → exec .brk s = .next t →
      t'.cfg = t.cfg → t'.sp = t.sp → t'.peek (stackAddr s.cfg (s.sp - 3)) = t.peek (stackAddr s.cfg (s.sp - 3)) →
      t'.peek16 (stackAddr s.cfg (s.sp - 2)) = t.peek16 (stackAddr s.cfg (s.sp - 2)) →
      ∃ u, exec .rti t' = .next u ∧ u.pc = s.pc + 1 ∧ u.sp = s.sp ∧ u.p = s.p ||| s.cfg.phpMask

/-- CLC, SEC, CLI, SEI, CLD, SED and CLV write their one flag and nothing else; NOP writes nothing. The cost is the
entry of P_CYCLES, which is the 2 the rule returns unless the launch changes it (log 19) (46_flags_misc.md R270, R271,
R272, R273, R274, R275, R276, R277). -/
def Obligations.FlagInstructions : Prop :=
  (∀ (i : Instr) (f : Flag) (v : Bool) (opc : Byte),
    (i, f, v, opc) ∈ [(Instr.clc, Flag.c, false, 0x18#8), (.sec, .c, true, 0x38#8), (.cli, .i, false, 0x58#8),
      (.sei, .i, true, 0x78#8), (.cld, .d, false, 0xD8#8), (.sed, .d, true, 0xF8#8), (.clv, .v, false, 0xB8#8)] →
    encode i = [opc] ∧ ∀ s : State,
      ∃ t, exec i s = .next t ∧ t.flagIs f v ∧ endsWithFixedCost s t opc 2 ∧ t.sp = s.sp ∧ t.pc = s.pc ∧
        t.addrLatch = s.addrLatch ∧ logsNone s t ∧ Frame [] [f] [] s t) ∧
    encode .nop = [0xEA#8] ∧ ∀ s : State,
      ∃ t, exec .nop s = .next t ∧ endsWithFixedCost s t 0xEA#8 2 ∧ t.sp = s.sp ∧ t.pc = s.pc ∧
        t.addrLatch = s.addrLatch ∧ logsNone s t ∧ Frame [] [] [] s t

/-- An instruction that reads an unwritten register, index, flag or pushed bit of P faults there, naming it. The fault
is the spec's own decision 92_eei_decisions.md D6 and R311 its inference; the machine it carries is log 14, BRK's
order log 25, A before C in ADC and SBC log 28, which bit PHP and BRK name log 12 (10_state.md R37, R27;
60_exceptions.md R311; 00_scope.md R5). -/
def Obligations.UnwrittenSourcesFault : Prop :=
  ∀ s : State,
    (∀ (i : Instr) (o : Operand) (r : Reg), i.operand = some o → o.index = some r → s.regWritten r = false →
      (∀ zz, o ≠ .indY zz) → exec i s = .fault (.unwrittenRead (.reg r) s)) ∧
    (∀ (i : Instr) (zz : Byte) (w : Word) (u : State), i.operand = some (.indY zz) → s.regWritten .y = false →
      memRead16 (zz.setWidth 17) s = .ok (w, u) → exec i s = .fault (.unwrittenRead (.reg .y) u)) ∧
    (∀ (i : Instr) (r : Reg),
      (i, r) ∈ [(Instr.tax, Reg.a), (.tay, .a), (.txa, .x), (.tya, .y), (.txs, .x), (.pha, .a), (.inx, .x), (.iny, .y),
        (.dex, .x), (.dey, .y), (.aslAcc, .a), (.lsrAcc, .a), (.rolAcc, .a), (.rorAcc, .a)] →
      s.regWritten r = false → exec i s = .fault (.unwrittenRead (.reg r) s)) ∧
    (∀ (i : Instr) (r : Reg) (o : Operand), (i.mnemonic, r) ∈ Mnemonic.stores → i.operand = some o →
      o.ready s = true → s.regWritten r = false →
      ∃ v, resolve o s = .ok v ∧ exec i s = .fault (.unwrittenRead (.reg r) v.state)) ∧
    (∀ (i : Instr) (r : Reg) (o : Operand),
      (i.mnemonic, r) ∈ Mnemonic.compares ++ [(.and, .a), (.ora, .a), (.eor, .a), (.bit, .a)] → i.operand = some o →
      o.ready s = true → s.regWritten r = false →
      ∃ v, resolve o s = .ok v ∧ exec i s = .fault (.unwrittenRead (.reg r) (readOperand o v).2)) ∧
    (∀ (i : Instr) (o : Operand), i.mnemonic ∈ [.adc, .sbc] → i.operand = some o → o.ready s = true →
      ∃ v, resolve o s = .ok v ∧
        (s.flagWritten .d = false → exec i s = .fault (.unwrittenRead (.flag .d) (readOperand o v).2)) ∧
        (s.flagWritten .d = true → ¬ s.decimalDraws → s.regWritten .a = false →
          exec i s = .fault (.unwrittenRead (.reg .a) (readOperand o v).2)) ∧
        (s.flagWritten .d = true → ¬ s.decimalDraws → s.regWritten .a = true → s.flagWritten .c = false →
          exec i s = .fault (.unwrittenRead (.flag .c) (readOperand o v).2))) ∧
    (∀ i : Instr, i ∈ [.rolAcc, .rorAcc] → s.regWritten .a = true → s.flagWritten .c = false →
      exec i s = .fault (.unwrittenRead (.flag .c) s)) ∧
    (∀ (i : Instr) (o : Operand), i.mnemonic ∈ [.rol, .ror] → i.operand = some o → o.ready s = true →
      s.flagWritten .c = false →
      ∃ v, resolve o s = .ok v ∧ exec i s = .fault (.unwrittenRead (.flag .c) (memRead8 v.value v.state).2)) ∧
    (∀ (i : Instr) (f : Flag) (on : Bool) (o : Operand),
      (i.mnemonic, f, on) ∈ Mnemonic.branches → i.operand = some o → s.flagWritten f = false →
      ∃ v, resolve o s = .ok v ∧ exec i s = .fault (.unwrittenRead (.flag f) v.state)) ∧
    (¬ s.statusReadable → ∃ g, s.cfg.phpMask.getLsbD g.bit = false ∧ s.flagWritten g = false ∧
      exec .php s = .fault (.unwrittenRead (.flag g) s) ∧ exec .brk s = .fault (.unwrittenRead (.flag g) s))

/-- Reset reads PC from the vector with one short, sets SP, clears the latches, and leaves A, X, Y, P unwritten or as
supplied. SP, the short vector read, the latches and the unwritten registers are the spec's own decisions
92_eei_decisions.md D5, D6, D27, D28 and D29; none for opcode and cycles_total is log 8; what a peripheral at the
vector answers is log 9, that its storage stays R331 and log 26 (10_state.md R37, R38; 70_reset_and_hazards.md R330,
R331, R332). -/
def Obligations.ResetProcedure : Prop :=
  ∀ (cfg : Config) (b : Bus),
    (b.shortFits (cfg.resetVector.setWidth 17) = false →
      ∃ m, launch cfg b = .fault (.shortPastDevice m) ∧ m.bus = b) ∧
      (b.shortFits (cfg.resetVector.setWidth 17) = true → ∃ t, launch cfg b = .next t ∧ t.cfg = cfg ∧
        t.sp = cfg.spReset ∧ t.pending = 0 ∧ t.addrLatch = 0#17 ∧ t.dataLatch = 0#16 ∧ t.opcode = none ∧
        t.cyclesTotal = none ∧ t.unknownSeen = false ∧
        t.bus.log = b.log ++ [⟨.read, cfg.resetVector.setWidth 17, t.pc, b.seq⟩] ∧ t.bus.seq = b.seq + 1 ∧
        t.bus.lastAddress = b.lastAddress ∧ t.bus.lastData = b.lastData ∧ t.bus.map = b.map ∧ t.bus.order = b.order ∧
        t.bus.devs = b.devs ∧
        (b.deviceAt (cfg.resetVector.setWidth 17) = none → t.pc = 0xFFFF#16) ∧
        (∀ (s : State) (w : Word), s.bus = b → s.peek16 (cfg.resetVector.setWidth 17) = some w → t.pc = w) ∧
        (∀ d dev u own before after, b.deviceAt (cfg.resetVector.setWidth 17) = some (d, dev) →
          dev.body = .peripheral u own before after →
          t.pc = (Config.peripheralRead16 u own (cfg.resetVector.setWidth 17)).1) ∧
        (cfg.regInit = .unwritten → t.written = Written.none) ∧
        ∀ a x y p, cfg.regInit = .values a x y p →
          t.a = a ∧ t.x = x ∧ t.y = y ∧ t.p = p ∧ t.written = Written.all)

/-- State.reset is the launch of the taken parameters on the standard platform (the model's choice, log 1 to 3)
(00_scope.md R5; 10_state.md R37; 20_memory.md R79; 70_reset_and_hazards.md R330, R333). -/
def Obligations.ResetStateIsTheLaunch : Prop :=
  (∃ b, standardPlatform = .ok b ∧ launch Config.taken b = .next State.reset) ∧ State.reset.sp = 0xFF#8 ∧
    State.reset.pending = 0 ∧ State.reset.addrLatch = 0#17 ∧ State.reset.dataLatch = 0#16 ∧
    Config.taken.resetVector = 0xFFFC#16 ∧ Config.taken.stackPage = 0x01#8 ∧ Config.taken.spReset = 0xFF#8
end

