-- ==== Sys2Proof/Laws/Memory.lean ====
section
/-! SUPPORT. The laws of a storage device's bytes: read after write, and the canonical form, which every operation
keeps and which makes equal memories equal lists. -/

namespace Sys2Proof.Machine

@[simp] theorem Memory.get_nil (off : Nat) : Memory.get [] off = Memory.unlisted := rfl

theorem Memory.get_cons (k : Nat) (v : Byte) (m : Memory) (off : Nat) :
    Memory.get ((k, v) :: m) off = if k = off then v else Memory.get m off := rfl

theorem Memory.wfFrom_mono {lo lo' : Nat} {m : Memory} (h : Memory.wfFrom lo m = true) (hl : lo' ≤ lo) :
    Memory.wfFrom lo' m = true := by
  cases m with
  | nil => rfl
  | cons c m =>
    obtain ⟨k, v⟩ := c
    simp only [Memory.wfFrom, Bool.and_eq_true, decide_eq_true_eq] at h ⊢
    exact ⟨⟨by omega, h.1.2⟩, h.2⟩

/-- Below its first offset a canonical memory reads as unlisted. -/
theorem Memory.get_below {lo off : Nat} {m : Memory} (h : Memory.wfFrom lo m = true) (hl : off < lo) :
    Memory.get m off = Memory.unlisted := by
  induction m generalizing lo with
  | nil => rfl
  | cons c m ih =>
    obtain ⟨k, v⟩ := c
    simp only [Memory.wfFrom, Bool.and_eq_true, decide_eq_true_eq] at h
    rw [Memory.get_cons, if_neg (by omega)]
    exact ih h.2 (by omega)

theorem Memory.wfFrom_set {lo off : Nat} {m : Memory} (v : Byte) (h : Memory.wfFrom lo m = true) (hl : lo ≤ off) :
    Memory.wfFrom lo (m.set off v) = true := by
  induction m generalizing lo with
  | nil =>
    unfold Memory.set
    split <;> simp_all [Memory.wfFrom]
  | cons c m ih =>
    obtain ⟨k, w⟩ := c
    simp only [Memory.wfFrom, Bool.and_eq_true, decide_eq_true_eq] at h
    unfold Memory.set
    split
    · split
      · simp [Memory.wfFrom, h]
      · simp [Memory.wfFrom, *]
    · split
      · split
        · exact Memory.wfFrom_mono h.2 (by omega)
        · simp [Memory.wfFrom, *]
      · simp only [Memory.wfFrom, Bool.and_eq_true, decide_eq_true_eq]
        exact ⟨h.1, ih h.2 (by omega)⟩

/-- Every write keeps the canonical form. -/
theorem Memory.wf_set {m : Memory} (off : Nat) (v : Byte) (h : m.wf = true) : (m.set off v).wf = true :=
  Memory.wfFrom_set v h (Nat.zero_le _)

theorem Memory.wf_setAll {m : Memory} (off : Nat) (vs : List Byte) (h : m.wf = true) : (m.setAll off vs).wf = true := by
  induction vs generalizing m off with
  | nil => exact h
  | cons v vs ih => exact ih (off + 1) (Memory.wf_set off v h)

/-- An entry after a write was there before, or is the one written. -/
theorem Memory.mem_set {m : Memory} {off : Nat} {v : Byte} {c : Host.Cell} (h : c ∈ m.set off v) :
    c ∈ m ∨ c = (off, v) := by
  induction m with
  | nil =>
    unfold Memory.set at h
    split at h <;> simp_all
  | cons e m ih =>
    obtain ⟨k, w⟩ := e
    unfold Memory.set at h
    split at h
    · split at h <;> simp_all <;> tauto
    · split at h
      · split at h <;> simp_all <;> tauto
      · rcases List.mem_cons.1 h with h | h
        · simp [h]
        · rcases ih h with h | h <;> simp [h]

/-- A write keeps every listed offset below the size. -/
theorem Memory.within_set {m : Memory} {size off : Nat} (v : Byte) (h : m.within size = true) (hl : off < size) :
    (m.set off v).within size = true := by
  simp only [Memory.within, List.all_eq_true, decide_eq_true_eq] at h ⊢
  intro c hc
  rcases Memory.mem_set hc with hc | rfl
  · exact h c hc
  · exact hl

/-- A read after a write to the same offset gives the value written. -/
theorem Memory.get_set_same {lo off : Nat} {m : Memory} (v : Byte) (h : Memory.wfFrom lo m = true) :
    (m.set off v).get off = v := by
  induction m generalizing lo with
  | nil =>
    unfold Memory.set
    split <;> simp_all [Memory.get_cons]
  | cons c m ih =>
    obtain ⟨k, w⟩ := c
    simp only [Memory.wfFrom, Bool.and_eq_true, decide_eq_true_eq] at h
    unfold Memory.set
    split
    · split
      · rw [Memory.get_cons, if_neg (by omega), Memory.get_below h.2 (by omega)]; simp_all
      · simp [Memory.get_cons]
    · split
      · split
        · subst_vars; rw [Memory.get_below h.2 (by omega)]
        · simp [Memory.get_cons]
      · rw [Memory.get_cons, if_neg (by omega)]
        exact ih h.2

/-- A write leaves every other offset alone. -/
theorem Memory.get_set_other {off off' : Nat} (m : Memory) (v : Byte) (hne : off' ≠ off) :
    (m.set off v).get off' = m.get off' := by
  induction m with
  | nil =>
    unfold Memory.set
    split
    · rfl
    · rw [Memory.get_cons, if_neg (by omega)]
  | cons c m ih =>
    obtain ⟨k, w⟩ := c
    unfold Memory.set
    split
    · split
      · rfl
      · rw [Memory.get_cons, if_neg (by omega)]
    · split
      · split
        · rw [Memory.get_cons, if_neg (by omega)]
        · rw [Memory.get_cons, Memory.get_cons, if_neg (by omega), if_neg (by omega)]
      · rw [Memory.get_cons, Memory.get_cons, ih]

/-- Canonical memories with equal bytes are equal lists. -/
theorem Memory.ext {lo : Nat} {m m' : Memory} (h : Memory.wfFrom lo m = true) (h' : Memory.wfFrom lo m' = true)
    (hg : ∀ off, m.get off = m'.get off) : m = m' := by
  induction m generalizing lo m' with
  | nil =>
    cases m' with
    | nil => rfl
    | cons c m' =>
      obtain ⟨k, v⟩ := c
      simp only [Memory.wfFrom, Bool.and_eq_true, decide_eq_true_eq] at h'
      exact absurd (by simpa [Memory.get_cons] using (hg k).symm) h'.1.2
  | cons c m ih =>
    obtain ⟨k, v⟩ := c
    cases m' with
    | nil =>
      simp only [Memory.wfFrom, Bool.and_eq_true, decide_eq_true_eq] at h
      exact absurd (by simpa [Memory.get_cons] using hg k) h.1.2
    | cons c' m' =>
      obtain ⟨k', v'⟩ := c'
      simp only [Memory.wfFrom, Bool.and_eq_true, decide_eq_true_eq] at h h'
      have hk : k = k' := by
        rcases Nat.lt_trichotomy k k' with hlt | heq | hgt
        · have := hg k
          rw [Memory.get_cons, if_pos rfl, Memory.get_cons, if_neg (by omega),
            Memory.get_below h'.2 (by omega)] at this
          exact absurd this h.1.2
        · exact heq
        · have := hg k'
          rw [Memory.get_cons, if_neg (by omega), Memory.get_below h.2 (by omega), Memory.get_cons,
            if_pos rfl] at this
          exact absurd this.symm h'.1.2
      subst hk
      have hv : v = v' := by simpa [Memory.get_cons] using hg k
      subst hv
      refine congrArg _ (ih h.2 h'.2 fun off => ?_)
      rcases Nat.lt_or_ge k off with hlt | hge
      · have := hg off
        rwa [Memory.get_cons, if_neg (by omega), Memory.get_cons, if_neg (by omega)] at this
      · rw [Memory.get_below h.2 (by omega), Memory.get_below h'.2 (by omega)]

end Sys2Proof.Machine
end

