-- ==== Sys2Proof/Laws/State.lean ====
section
/-! SUPPORT. One lemma per field of `State` per update, and the same for the register and flag accessors, so that no
later proof unfolds a record update. -/

namespace Sys2Proof.Machine

/-! ## Bits of P -/

theorem getLsbD_setBit (p : Byte) (f g : Flag) (v : Bool) :
    (setBit p f v).getLsbD g.bit = if g = f then v else p.getLsbD g.bit := by
  cases f <;> cases g <;> cases v <;> simp [setBit, Flag.bit]

theorem Flag.bit_lt (f : Flag) : f.bit < 8 := by cases f <;> decide

/-! ## `setReg` -/

@[simp] theorem State.setReg_cfg (s : State) (r : Reg) (v : Byte) : (s.setReg r v).cfg = s.cfg := by cases r <;> rfl
@[simp] theorem State.setReg_sp (s : State) (r : Reg) (v : Byte) : (s.setReg r v).sp = s.sp := by cases r <;> rfl
@[simp] theorem State.setReg_pc (s : State) (r : Reg) (v : Byte) : (s.setReg r v).pc = s.pc := by cases r <;> rfl
@[simp] theorem State.setReg_p (s : State) (r : Reg) (v : Byte) : (s.setReg r v).p = s.p := by cases r <;> rfl
@[simp] theorem State.setReg_pending (s : State) (r : Reg) (v : Byte) : (s.setReg r v).pending = s.pending := by cases r <;> rfl
@[simp] theorem State.setReg_opcode (s : State) (r : Reg) (v : Byte) : (s.setReg r v).opcode = s.opcode := by cases r <;> rfl
@[simp] theorem State.setReg_addrLatch (s : State) (r : Reg) (v : Byte) : (s.setReg r v).addrLatch = s.addrLatch := by cases r <;> rfl
@[simp] theorem State.setReg_dataLatch (s : State) (r : Reg) (v : Byte) : (s.setReg r v).dataLatch = s.dataLatch := by cases r <;> rfl
@[simp] theorem State.setReg_cyclesTotal (s : State) (r : Reg) (v : Byte) : (s.setReg r v).cyclesTotal = s.cyclesTotal := by cases r <;> rfl
@[simp] theorem State.setReg_unknownSeen (s : State) (r : Reg) (v : Byte) : (s.setReg r v).unknownSeen = s.unknownSeen := by cases r <;> rfl
@[simp] theorem State.setReg_bus (s : State) (r : Reg) (v : Byte) : (s.setReg r v).bus = s.bus := by cases r <;> rfl
@[simp] theorem State.setReg_draws (s : State) (r : Reg) (v : Byte) : (s.setReg r v).draws = s.draws := by cases r <;> rfl
@[simp] theorem State.setReg_reg (s : State) (r q : Reg) (v : Byte) :
    (s.setReg r v).reg q = if q = r then v else s.reg q := by cases r <;> cases q <;> rfl
@[simp] theorem State.setReg_regWritten (s : State) (r q : Reg) (v : Byte) :
    (s.setReg r v).regWritten q = if q = r then true else s.regWritten q := by cases r <;> cases q <;> rfl
@[simp] theorem State.setReg_flag (s : State) (r : Reg) (v : Byte) (g : Flag) :
    (s.setReg r v).flag g = s.flag g := by cases r <;> rfl
@[simp] theorem State.setReg_flagWritten (s : State) (r : Reg) (v : Byte) (g : Flag) :
    (s.setReg r v).flagWritten g = s.flagWritten g := by cases r <;> rfl

/-! ## `setFlag` -/

@[simp] theorem State.setFlag_cfg (s : State) (f : Flag) (v : Bool) : (s.setFlag f v).cfg = s.cfg := rfl
@[simp] theorem State.setFlag_a (s : State) (f : Flag) (v : Bool) : (s.setFlag f v).a = s.a := rfl
@[simp] theorem State.setFlag_x (s : State) (f : Flag) (v : Bool) : (s.setFlag f v).x = s.x := rfl
@[simp] theorem State.setFlag_y (s : State) (f : Flag) (v : Bool) : (s.setFlag f v).y = s.y := rfl
@[simp] theorem State.setFlag_sp (s : State) (f : Flag) (v : Bool) : (s.setFlag f v).sp = s.sp := rfl
@[simp] theorem State.setFlag_pc (s : State) (f : Flag) (v : Bool) : (s.setFlag f v).pc = s.pc := rfl
@[simp] theorem State.setFlag_p (s : State) (f : Flag) (v : Bool) : (s.setFlag f v).p = setBit s.p f v := rfl
@[simp] theorem State.setFlag_pending (s : State) (f : Flag) (v : Bool) : (s.setFlag f v).pending = s.pending := rfl
@[simp] theorem State.setFlag_opcode (s : State) (f : Flag) (v : Bool) : (s.setFlag f v).opcode = s.opcode := rfl
@[simp] theorem State.setFlag_addrLatch (s : State) (f : Flag) (v : Bool) : (s.setFlag f v).addrLatch = s.addrLatch := rfl
@[simp] theorem State.setFlag_dataLatch (s : State) (f : Flag) (v : Bool) : (s.setFlag f v).dataLatch = s.dataLatch := rfl
@[simp] theorem State.setFlag_cyclesTotal (s : State) (f : Flag) (v : Bool) : (s.setFlag f v).cyclesTotal = s.cyclesTotal := rfl
@[simp] theorem State.setFlag_unknownSeen (s : State) (f : Flag) (v : Bool) : (s.setFlag f v).unknownSeen = s.unknownSeen := rfl
@[simp] theorem State.setFlag_bus (s : State) (f : Flag) (v : Bool) : (s.setFlag f v).bus = s.bus := rfl
@[simp] theorem State.setFlag_draws (s : State) (f : Flag) (v : Bool) : (s.setFlag f v).draws = s.draws := rfl
@[simp] theorem State.setFlag_reg (s : State) (f : Flag) (v : Bool) (q : Reg) :
    (s.setFlag f v).reg q = s.reg q := rfl
@[simp] theorem State.setFlag_regWritten (s : State) (f : Flag) (v : Bool) (q : Reg) :
    (s.setFlag f v).regWritten q = s.regWritten q := rfl
@[simp] theorem State.setFlag_flag (s : State) (f g : Flag) (v : Bool) :
    (s.setFlag f v).flag g = if g = f then v else s.flag g := getLsbD_setBit s.p f g v
@[simp] theorem State.setFlag_flagWritten (s : State) (f g : Flag) (v : Bool) :
    (s.setFlag f v).flagWritten g = if g = f then true else s.flagWritten g := getLsbD_setBit s.written.p f g true

/-! ## `setP` -/

@[simp] theorem State.setP_cfg (s : State) (v : Byte) : (s.setP v).cfg = s.cfg := rfl
@[simp] theorem State.setP_a (s : State) (v : Byte) : (s.setP v).a = s.a := rfl
@[simp] theorem State.setP_x (s : State) (v : Byte) : (s.setP v).x = s.x := rfl
@[simp] theorem State.setP_y (s : State) (v : Byte) : (s.setP v).y = s.y := rfl
@[simp] theorem State.setP_sp (s : State) (v : Byte) : (s.setP v).sp = s.sp := rfl
@[simp] theorem State.setP_pc (s : State) (v : Byte) : (s.setP v).pc = s.pc := rfl
@[simp] theorem State.setP_p (s : State) (v : Byte) : (s.setP v).p = v := rfl
@[simp] theorem State.setP_pending (s : State) (v : Byte) : (s.setP v).pending = s.pending := rfl
@[simp] theorem State.setP_opcode (s : State) (v : Byte) : (s.setP v).opcode = s.opcode := rfl
@[simp] theorem State.setP_addrLatch (s : State) (v : Byte) : (s.setP v).addrLatch = s.addrLatch := rfl
@[simp] theorem State.setP_dataLatch (s : State) (v : Byte) : (s.setP v).dataLatch = s.dataLatch := rfl
@[simp] theorem State.setP_cyclesTotal (s : State) (v : Byte) : (s.setP v).cyclesTotal = s.cyclesTotal := rfl
@[simp] theorem State.setP_unknownSeen (s : State) (v : Byte) : (s.setP v).unknownSeen = s.unknownSeen := rfl
@[simp] theorem State.setP_bus (s : State) (v : Byte) : (s.setP v).bus = s.bus := rfl
@[simp] theorem State.setP_draws (s : State) (v : Byte) : (s.setP v).draws = s.draws := rfl
@[simp] theorem State.setP_reg (s : State) (v : Byte) (q : Reg) : (s.setP v).reg q = s.reg q := rfl
@[simp] theorem State.setP_regWritten (s : State) (v : Byte) (q : Reg) :
    (s.setP v).regWritten q = s.regWritten q := rfl
@[simp] theorem State.setP_flag (s : State) (v : Byte) (g : Flag) : (s.setP v).flag g = v.getLsbD g.bit := rfl
@[simp] theorem State.setP_flagWritten (s : State) (v : Byte) (g : Flag) : (s.setP v).flagWritten g = true := by
  cases g <;> simp [State.setP, State.flagWritten, Flag.bit]

/-! ## `setNZ` -/

@[simp] theorem State.setNZ_cfg (s : State) (r : Byte) : (s.setNZ r).cfg = s.cfg := rfl
@[simp] theorem State.setNZ_a (s : State) (r : Byte) : (s.setNZ r).a = s.a := rfl
@[simp] theorem State.setNZ_x (s : State) (r : Byte) : (s.setNZ r).x = s.x := rfl
@[simp] theorem State.setNZ_y (s : State) (r : Byte) : (s.setNZ r).y = s.y := rfl
@[simp] theorem State.setNZ_sp (s : State) (r : Byte) : (s.setNZ r).sp = s.sp := rfl
@[simp] theorem State.setNZ_pc (s : State) (r : Byte) : (s.setNZ r).pc = s.pc := rfl
@[simp] theorem State.setNZ_pending (s : State) (r : Byte) : (s.setNZ r).pending = s.pending := rfl
@[simp] theorem State.setNZ_opcode (s : State) (r : Byte) : (s.setNZ r).opcode = s.opcode := rfl
@[simp] theorem State.setNZ_addrLatch (s : State) (r : Byte) : (s.setNZ r).addrLatch = s.addrLatch := rfl
@[simp] theorem State.setNZ_dataLatch (s : State) (r : Byte) : (s.setNZ r).dataLatch = s.dataLatch := rfl
@[simp] theorem State.setNZ_cyclesTotal (s : State) (r : Byte) : (s.setNZ r).cyclesTotal = s.cyclesTotal := rfl
@[simp] theorem State.setNZ_unknownSeen (s : State) (r : Byte) : (s.setNZ r).unknownSeen = s.unknownSeen := rfl
@[simp] theorem State.setNZ_bus (s : State) (r : Byte) : (s.setNZ r).bus = s.bus := rfl
@[simp] theorem State.setNZ_draws (s : State) (r : Byte) : (s.setNZ r).draws = s.draws := rfl
@[simp] theorem State.setNZ_reg (s : State) (r : Byte) (q : Reg) : (s.setNZ r).reg q = s.reg q := rfl
@[simp] theorem State.setNZ_regWritten (s : State) (r : Byte) (q : Reg) :
    (s.setNZ r).regWritten q = s.regWritten q := rfl
@[simp] theorem State.setNZ_flag (s : State) (r : Byte) (g : Flag) :
    (s.setNZ r).flag g = if g = .n then r.getLsbD 7 else if g = .z then r == 0#8 else s.flag g := by
  simp [State.setNZ]
@[simp] theorem State.setNZ_flagWritten (s : State) (r : Byte) (g : Flag) :
    (s.setNZ r).flagWritten g = if g = .n then true else if g = .z then true else s.flagWritten g := by
  simp [State.setNZ]

/-! ## `setPc` -/

@[simp] theorem State.setPc_cfg (s : State) (v : Word) : (s.setPc v).cfg = s.cfg := rfl
@[simp] theorem State.setPc_a (s : State) (v : Word) : (s.setPc v).a = s.a := rfl
@[simp] theorem State.setPc_x (s : State) (v : Word) : (s.setPc v).x = s.x := rfl
@[simp] theorem State.setPc_y (s : State) (v : Word) : (s.setPc v).y = s.y := rfl
@[simp] theorem State.setPc_sp (s : State) (v : Word) : (s.setPc v).sp = s.sp := rfl
@[simp] theorem State.setPc_pc (s : State) (v : Word) : (s.setPc v).pc = v := rfl
@[simp] theorem State.setPc_p (s : State) (v : Word) : (s.setPc v).p = s.p := rfl
@[simp] theorem State.setPc_written (s : State) (v : Word) : (s.setPc v).written = s.written := rfl
@[simp] theorem State.setPc_pending (s : State) (v : Word) : (s.setPc v).pending = s.pending := rfl
@[simp] theorem State.setPc_opcode (s : State) (v : Word) : (s.setPc v).opcode = s.opcode := rfl
@[simp] theorem State.setPc_addrLatch (s : State) (v : Word) : (s.setPc v).addrLatch = s.addrLatch := rfl
@[simp] theorem State.setPc_dataLatch (s : State) (v : Word) : (s.setPc v).dataLatch = s.dataLatch := rfl
@[simp] theorem State.setPc_cyclesTotal (s : State) (v : Word) : (s.setPc v).cyclesTotal = s.cyclesTotal := rfl
@[simp] theorem State.setPc_unknownSeen (s : State) (v : Word) : (s.setPc v).unknownSeen = s.unknownSeen := rfl
@[simp] theorem State.setPc_bus (s : State) (v : Word) : (s.setPc v).bus = s.bus := rfl
@[simp] theorem State.setPc_draws (s : State) (v : Word) : (s.setPc v).draws = s.draws := rfl
@[simp] theorem State.setPc_reg (s : State) (v : Word) (q : Reg) : (s.setPc v).reg q = s.reg q := rfl
@[simp] theorem State.setPc_regWritten (s : State) (v : Word) (q : Reg) : (s.setPc v).regWritten q = s.regWritten q := rfl
@[simp] theorem State.setPc_flag (s : State) (v : Word) (q : Flag) : (s.setPc v).flag q = s.flag q := rfl
@[simp] theorem State.setPc_flagWritten (s : State) (v : Word) (q : Flag) : (s.setPc v).flagWritten q = s.flagWritten q := rfl

/-! ## `setSp` -/

@[simp] theorem State.setSp_cfg (s : State) (v : Byte) : (s.setSp v).cfg = s.cfg := rfl
@[simp] theorem State.setSp_a (s : State) (v : Byte) : (s.setSp v).a = s.a := rfl
@[simp] theorem State.setSp_x (s : State) (v : Byte) : (s.setSp v).x = s.x := rfl
@[simp] theorem State.setSp_y (s : State) (v : Byte) : (s.setSp v).y = s.y := rfl
@[simp] theorem State.setSp_sp (s : State) (v : Byte) : (s.setSp v).sp = v := rfl
@[simp] theorem State.setSp_pc (s : State) (v : Byte) : (s.setSp v).pc = s.pc := rfl
@[simp] theorem State.setSp_p (s : State) (v : Byte) : (s.setSp v).p = s.p := rfl
@[simp] theorem State.setSp_written (s : State) (v : Byte) : (s.setSp v).written = s.written := rfl
@[simp] theorem State.setSp_pending (s : State) (v : Byte) : (s.setSp v).pending = s.pending := rfl
@[simp] theorem State.setSp_opcode (s : State) (v : Byte) : (s.setSp v).opcode = s.opcode := rfl
@[simp] theorem State.setSp_addrLatch (s : State) (v : Byte) : (s.setSp v).addrLatch = s.addrLatch := rfl
@[simp] theorem State.setSp_dataLatch (s : State) (v : Byte) : (s.setSp v).dataLatch = s.dataLatch := rfl
@[simp] theorem State.setSp_cyclesTotal (s : State) (v : Byte) : (s.setSp v).cyclesTotal = s.cyclesTotal := rfl
@[simp] theorem State.setSp_unknownSeen (s : State) (v : Byte) : (s.setSp v).unknownSeen = s.unknownSeen := rfl
@[simp] theorem State.setSp_bus (s : State) (v : Byte) : (s.setSp v).bus = s.bus := rfl
@[simp] theorem State.setSp_draws (s : State) (v : Byte) : (s.setSp v).draws = s.draws := rfl
@[simp] theorem State.setSp_reg (s : State) (v : Byte) (q : Reg) : (s.setSp v).reg q = s.reg q := rfl
@[simp] theorem State.setSp_regWritten (s : State) (v : Byte) (q : Reg) : (s.setSp v).regWritten q = s.regWritten q := rfl
@[simp] theorem State.setSp_flag (s : State) (v : Byte) (q : Flag) : (s.setSp v).flag q = s.flag q := rfl
@[simp] theorem State.setSp_flagWritten (s : State) (v : Byte) (q : Flag) : (s.setSp v).flagWritten q = s.flagWritten q := rfl

/-! ## `setAddrLatch` -/

@[simp] theorem State.setAddrLatch_cfg (s : State) (v : BusAddr) : (s.setAddrLatch v).cfg = s.cfg := rfl
@[simp] theorem State.setAddrLatch_a (s : State) (v : BusAddr) : (s.setAddrLatch v).a = s.a := rfl
@[simp] theorem State.setAddrLatch_x (s : State) (v : BusAddr) : (s.setAddrLatch v).x = s.x := rfl
@[simp] theorem State.setAddrLatch_y (s : State) (v : BusAddr) : (s.setAddrLatch v).y = s.y := rfl
@[simp] theorem State.setAddrLatch_sp (s : State) (v : BusAddr) : (s.setAddrLatch v).sp = s.sp := rfl
@[simp] theorem State.setAddrLatch_pc (s : State) (v : BusAddr) : (s.setAddrLatch v).pc = s.pc := rfl
@[simp] theorem State.setAddrLatch_p (s : State) (v : BusAddr) : (s.setAddrLatch v).p = s.p := rfl
@[simp] theorem State.setAddrLatch_written (s : State) (v : BusAddr) : (s.setAddrLatch v).written = s.written := rfl
@[simp] theorem State.setAddrLatch_pending (s : State) (v : BusAddr) : (s.setAddrLatch v).pending = s.pending := rfl
@[simp] theorem State.setAddrLatch_opcode (s : State) (v : BusAddr) : (s.setAddrLatch v).opcode = s.opcode := rfl
@[simp] theorem State.setAddrLatch_addrLatch (s : State) (v : BusAddr) : (s.setAddrLatch v).addrLatch = v := rfl
@[simp] theorem State.setAddrLatch_dataLatch (s : State) (v : BusAddr) : (s.setAddrLatch v).dataLatch = s.dataLatch := rfl
@[simp] theorem State.setAddrLatch_cyclesTotal (s : State) (v : BusAddr) : (s.setAddrLatch v).cyclesTotal = s.cyclesTotal := rfl
@[simp] theorem State.setAddrLatch_unknownSeen (s : State) (v : BusAddr) : (s.setAddrLatch v).unknownSeen = s.unknownSeen := rfl
@[simp] theorem State.setAddrLatch_bus (s : State) (v : BusAddr) : (s.setAddrLatch v).bus = s.bus := rfl
@[simp] theorem State.setAddrLatch_draws (s : State) (v : BusAddr) : (s.setAddrLatch v).draws = s.draws := rfl
@[simp] theorem State.setAddrLatch_reg (s : State) (v : BusAddr) (q : Reg) : (s.setAddrLatch v).reg q = s.reg q := rfl
@[simp] theorem State.setAddrLatch_regWritten (s : State) (v : BusAddr) (q : Reg) : (s.setAddrLatch v).regWritten q = s.regWritten q := rfl
@[simp] theorem State.setAddrLatch_flag (s : State) (v : BusAddr) (q : Flag) : (s.setAddrLatch v).flag q = s.flag q := rfl
@[simp] theorem State.setAddrLatch_flagWritten (s : State) (v : BusAddr) (q : Flag) : (s.setAddrLatch v).flagWritten q = s.flagWritten q := rfl

/-! ## `setOpcode` -/

@[simp] theorem State.setOpcode_cfg (s : State) (v : Byte) : (s.setOpcode v).cfg = s.cfg := rfl
@[simp] theorem State.setOpcode_a (s : State) (v : Byte) : (s.setOpcode v).a = s.a := rfl
@[simp] theorem State.setOpcode_x (s : State) (v : Byte) : (s.setOpcode v).x = s.x := rfl
@[simp] theorem State.setOpcode_y (s : State) (v : Byte) : (s.setOpcode v).y = s.y := rfl
@[simp] theorem State.setOpcode_sp (s : State) (v : Byte) : (s.setOpcode v).sp = s.sp := rfl
@[simp] theorem State.setOpcode_pc (s : State) (v : Byte) : (s.setOpcode v).pc = s.pc := rfl
@[simp] theorem State.setOpcode_p (s : State) (v : Byte) : (s.setOpcode v).p = s.p := rfl
@[simp] theorem State.setOpcode_written (s : State) (v : Byte) : (s.setOpcode v).written = s.written := rfl
@[simp] theorem State.setOpcode_pending (s : State) (v : Byte) : (s.setOpcode v).pending = s.pending := rfl
@[simp] theorem State.setOpcode_opcode (s : State) (v : Byte) : (s.setOpcode v).opcode = some v := rfl
@[simp] theorem State.setOpcode_addrLatch (s : State) (v : Byte) : (s.setOpcode v).addrLatch = s.addrLatch := rfl
@[simp] theorem State.setOpcode_dataLatch (s : State) (v : Byte) : (s.setOpcode v).dataLatch = s.dataLatch := rfl
@[simp] theorem State.setOpcode_cyclesTotal (s : State) (v : Byte) : (s.setOpcode v).cyclesTotal = s.cyclesTotal := rfl
@[simp] theorem State.setOpcode_unknownSeen (s : State) (v : Byte) : (s.setOpcode v).unknownSeen = s.unknownSeen := rfl
@[simp] theorem State.setOpcode_bus (s : State) (v : Byte) : (s.setOpcode v).bus = s.bus := rfl
@[simp] theorem State.setOpcode_draws (s : State) (v : Byte) : (s.setOpcode v).draws = s.draws := rfl
@[simp] theorem State.setOpcode_reg (s : State) (v : Byte) (q : Reg) : (s.setOpcode v).reg q = s.reg q := rfl
@[simp] theorem State.setOpcode_regWritten (s : State) (v : Byte) (q : Reg) : (s.setOpcode v).regWritten q = s.regWritten q := rfl
@[simp] theorem State.setOpcode_flag (s : State) (v : Byte) (q : Flag) : (s.setOpcode v).flag q = s.flag q := rfl
@[simp] theorem State.setOpcode_flagWritten (s : State) (v : Byte) (q : Flag) : (s.setOpcode v).flagWritten q = s.flagWritten q := rfl

/-! ## `useDraws` -/

@[simp] theorem State.useDraws_cfg (s : State) (n : Nat) : (s.useDraws n).cfg = s.cfg := rfl
@[simp] theorem State.useDraws_a (s : State) (n : Nat) : (s.useDraws n).a = s.a := rfl
@[simp] theorem State.useDraws_x (s : State) (n : Nat) : (s.useDraws n).x = s.x := rfl
@[simp] theorem State.useDraws_y (s : State) (n : Nat) : (s.useDraws n).y = s.y := rfl
@[simp] theorem State.useDraws_sp (s : State) (n : Nat) : (s.useDraws n).sp = s.sp := rfl
@[simp] theorem State.useDraws_pc (s : State) (n : Nat) : (s.useDraws n).pc = s.pc := rfl
@[simp] theorem State.useDraws_p (s : State) (n : Nat) : (s.useDraws n).p = s.p := rfl
@[simp] theorem State.useDraws_written (s : State) (n : Nat) : (s.useDraws n).written = s.written := rfl
@[simp] theorem State.useDraws_pending (s : State) (n : Nat) : (s.useDraws n).pending = s.pending := rfl
@[simp] theorem State.useDraws_opcode (s : State) (n : Nat) : (s.useDraws n).opcode = s.opcode := rfl
@[simp] theorem State.useDraws_addrLatch (s : State) (n : Nat) : (s.useDraws n).addrLatch = s.addrLatch := rfl
@[simp] theorem State.useDraws_dataLatch (s : State) (n : Nat) : (s.useDraws n).dataLatch = s.dataLatch := rfl
@[simp] theorem State.useDraws_cyclesTotal (s : State) (n : Nat) : (s.useDraws n).cyclesTotal = s.cyclesTotal := rfl
@[simp] theorem State.useDraws_unknownSeen (s : State) (n : Nat) : (s.useDraws n).unknownSeen = s.unknownSeen := rfl
@[simp] theorem State.useDraws_bus (s : State) (n : Nat) : (s.useDraws n).bus = s.bus := rfl
@[simp] theorem State.useDraws_draws (s : State) (n : Nat) : (s.useDraws n).draws = s.draws + n := rfl
@[simp] theorem State.useDraws_reg (s : State) (n : Nat) (q : Reg) : (s.useDraws n).reg q = s.reg q := rfl
@[simp] theorem State.useDraws_regWritten (s : State) (n : Nat) (q : Reg) : (s.useDraws n).regWritten q = s.regWritten q := rfl
@[simp] theorem State.useDraws_flag (s : State) (n : Nat) (q : Flag) : (s.useDraws n).flag q = s.flag q := rfl
@[simp] theorem State.useDraws_flagWritten (s : State) (n : Nat) (q : Flag) : (s.useDraws n).flagWritten q = s.flagWritten q := rfl

/-! ## `setBus` -/

@[simp] theorem State.setBus_cfg (s : State) (b : Bus) : (s.setBus b).cfg = s.cfg := rfl
@[simp] theorem State.setBus_a (s : State) (b : Bus) : (s.setBus b).a = s.a := rfl
@[simp] theorem State.setBus_x (s : State) (b : Bus) : (s.setBus b).x = s.x := rfl
@[simp] theorem State.setBus_y (s : State) (b : Bus) : (s.setBus b).y = s.y := rfl
@[simp] theorem State.setBus_sp (s : State) (b : Bus) : (s.setBus b).sp = s.sp := rfl
@[simp] theorem State.setBus_pc (s : State) (b : Bus) : (s.setBus b).pc = s.pc := rfl
@[simp] theorem State.setBus_p (s : State) (b : Bus) : (s.setBus b).p = s.p := rfl
@[simp] theorem State.setBus_written (s : State) (b : Bus) : (s.setBus b).written = s.written := rfl
@[simp] theorem State.setBus_pending (s : State) (b : Bus) : (s.setBus b).pending = s.pending := rfl
@[simp] theorem State.setBus_opcode (s : State) (b : Bus) : (s.setBus b).opcode = s.opcode := rfl
@[simp] theorem State.setBus_addrLatch (s : State) (b : Bus) : (s.setBus b).addrLatch = s.addrLatch := rfl
@[simp] theorem State.setBus_dataLatch (s : State) (b : Bus) : (s.setBus b).dataLatch = s.dataLatch := rfl
@[simp] theorem State.setBus_cyclesTotal (s : State) (b : Bus) : (s.setBus b).cyclesTotal = s.cyclesTotal := rfl
@[simp] theorem State.setBus_unknownSeen (s : State) (b : Bus) : (s.setBus b).unknownSeen = s.unknownSeen := rfl
@[simp] theorem State.setBus_bus (s : State) (b : Bus) : (s.setBus b).bus = b := rfl
@[simp] theorem State.setBus_draws (s : State) (b : Bus) : (s.setBus b).draws = s.draws := rfl
@[simp] theorem State.setBus_reg (s : State) (b : Bus) (q : Reg) : (s.setBus b).reg q = s.reg q := rfl
@[simp] theorem State.setBus_regWritten (s : State) (b : Bus) (q : Reg) : (s.setBus b).regWritten q = s.regWritten q := rfl
@[simp] theorem State.setBus_flag (s : State) (b : Bus) (q : Flag) : (s.setBus b).flag q = s.flag q := rfl
@[simp] theorem State.setBus_flagWritten (s : State) (b : Bus) (q : Flag) : (s.setBus b).flagWritten q = s.flagWritten q := rfl

/-! ## `record` -/

@[simp] theorem State.record_cfg (s : State) (k : AccessKind) (a : BusAddr) (w : Word) : (s.record k a w).cfg = s.cfg := rfl
@[simp] theorem State.record_a (s : State) (k : AccessKind) (a : BusAddr) (w : Word) : (s.record k a w).a = s.a := rfl
@[simp] theorem State.record_x (s : State) (k : AccessKind) (a : BusAddr) (w : Word) : (s.record k a w).x = s.x := rfl
@[simp] theorem State.record_y (s : State) (k : AccessKind) (a : BusAddr) (w : Word) : (s.record k a w).y = s.y := rfl
@[simp] theorem State.record_sp (s : State) (k : AccessKind) (a : BusAddr) (w : Word) : (s.record k a w).sp = s.sp := rfl
@[simp] theorem State.record_pc (s : State) (k : AccessKind) (a : BusAddr) (w : Word) : (s.record k a w).pc = s.pc := rfl
@[simp] theorem State.record_p (s : State) (k : AccessKind) (a : BusAddr) (w : Word) : (s.record k a w).p = s.p := rfl
@[simp] theorem State.record_written (s : State) (k : AccessKind) (a : BusAddr) (w : Word) : (s.record k a w).written = s.written := rfl
@[simp] theorem State.record_pending (s : State) (k : AccessKind) (a : BusAddr) (w : Word) : (s.record k a w).pending = s.pending := rfl
@[simp] theorem State.record_opcode (s : State) (k : AccessKind) (a : BusAddr) (w : Word) : (s.record k a w).opcode = s.opcode := rfl
@[simp] theorem State.record_addrLatch (s : State) (k : AccessKind) (a : BusAddr) (w : Word) : (s.record k a w).addrLatch = s.addrLatch := rfl
@[simp] theorem State.record_dataLatch (s : State) (k : AccessKind) (a : BusAddr) (w : Word) : (s.record k a w).dataLatch = s.dataLatch := rfl
@[simp] theorem State.record_cyclesTotal (s : State) (k : AccessKind) (a : BusAddr) (w : Word) : (s.record k a w).cyclesTotal = s.cyclesTotal := rfl
@[simp] theorem State.record_unknownSeen (s : State) (k : AccessKind) (a : BusAddr) (w : Word) : (s.record k a w).unknownSeen = s.unknownSeen := rfl
@[simp] theorem State.record_bus (s : State) (k : AccessKind) (a : BusAddr) (w : Word) : (s.record k a w).bus = s.bus.append k a w := rfl
@[simp] theorem State.record_draws (s : State) (k : AccessKind) (a : BusAddr) (w : Word) : (s.record k a w).draws = s.draws := rfl
@[simp] theorem State.record_reg (s : State) (k : AccessKind) (a : BusAddr) (w : Word) (q : Reg) : (s.record k a w).reg q = s.reg q := rfl
@[simp] theorem State.record_regWritten (s : State) (k : AccessKind) (a : BusAddr) (w : Word) (q : Reg) : (s.record k a w).regWritten q = s.regWritten q := rfl
@[simp] theorem State.record_flag (s : State) (k : AccessKind) (a : BusAddr) (w : Word) (q : Flag) : (s.record k a w).flag q = s.flag q := rfl
@[simp] theorem State.record_flagWritten (s : State) (k : AccessKind) (a : BusAddr) (w : Word) (q : Flag) : (s.record k a w).flagWritten q = s.flagWritten q := rfl

/-! ## `setBody` -/

@[simp] theorem State.setBody_cfg (s : State) (d : Nat) (b : DeviceBody) : (s.setBody d b).cfg = s.cfg := rfl
@[simp] theorem State.setBody_a (s : State) (d : Nat) (b : DeviceBody) : (s.setBody d b).a = s.a := rfl
@[simp] theorem State.setBody_x (s : State) (d : Nat) (b : DeviceBody) : (s.setBody d b).x = s.x := rfl
@[simp] theorem State.setBody_y (s : State) (d : Nat) (b : DeviceBody) : (s.setBody d b).y = s.y := rfl
@[simp] theorem State.setBody_sp (s : State) (d : Nat) (b : DeviceBody) : (s.setBody d b).sp = s.sp := rfl
@[simp] theorem State.setBody_pc (s : State) (d : Nat) (b : DeviceBody) : (s.setBody d b).pc = s.pc := rfl
@[simp] theorem State.setBody_p (s : State) (d : Nat) (b : DeviceBody) : (s.setBody d b).p = s.p := rfl
@[simp] theorem State.setBody_written (s : State) (d : Nat) (b : DeviceBody) : (s.setBody d b).written = s.written := rfl
@[simp] theorem State.setBody_pending (s : State) (d : Nat) (b : DeviceBody) : (s.setBody d b).pending = s.pending := rfl
@[simp] theorem State.setBody_opcode (s : State) (d : Nat) (b : DeviceBody) : (s.setBody d b).opcode = s.opcode := rfl
@[simp] theorem State.setBody_addrLatch (s : State) (d : Nat) (b : DeviceBody) : (s.setBody d b).addrLatch = s.addrLatch := rfl
@[simp] theorem State.setBody_dataLatch (s : State) (d : Nat) (b : DeviceBody) : (s.setBody d b).dataLatch = s.dataLatch := rfl
@[simp] theorem State.setBody_cyclesTotal (s : State) (d : Nat) (b : DeviceBody) : (s.setBody d b).cyclesTotal = s.cyclesTotal := rfl
@[simp] theorem State.setBody_unknownSeen (s : State) (d : Nat) (b : DeviceBody) : (s.setBody d b).unknownSeen = s.unknownSeen := rfl
@[simp] theorem State.setBody_bus (s : State) (d : Nat) (b : DeviceBody) : (s.setBody d b).bus = s.bus.setBody d b := rfl
@[simp] theorem State.setBody_draws (s : State) (d : Nat) (b : DeviceBody) : (s.setBody d b).draws = s.draws := rfl
@[simp] theorem State.setBody_reg (s : State) (d : Nat) (b : DeviceBody) (q : Reg) : (s.setBody d b).reg q = s.reg q := rfl
@[simp] theorem State.setBody_regWritten (s : State) (d : Nat) (b : DeviceBody) (q : Reg) : (s.setBody d b).regWritten q = s.regWritten q := rfl
@[simp] theorem State.setBody_flag (s : State) (d : Nat) (b : DeviceBody) (q : Flag) : (s.setBody d b).flag q = s.flag q := rfl
@[simp] theorem State.setBody_flagWritten (s : State) (d : Nat) (b : DeviceBody) (q : Flag) : (s.setBody d b).flagWritten q = s.flagWritten q := rfl

/-! ## `retire` -/

@[simp] theorem State.retire_cfg (s : State) (c : Nat) : (s.retire c).cfg = s.cfg := rfl
@[simp] theorem State.retire_a (s : State) (c : Nat) : (s.retire c).a = s.a := rfl
@[simp] theorem State.retire_x (s : State) (c : Nat) : (s.retire c).x = s.x := rfl
@[simp] theorem State.retire_y (s : State) (c : Nat) : (s.retire c).y = s.y := rfl
@[simp] theorem State.retire_sp (s : State) (c : Nat) : (s.retire c).sp = s.sp := rfl
@[simp] theorem State.retire_pc (s : State) (c : Nat) : (s.retire c).pc = s.pc := rfl
@[simp] theorem State.retire_p (s : State) (c : Nat) : (s.retire c).p = s.p := rfl
@[simp] theorem State.retire_written (s : State) (c : Nat) : (s.retire c).written = s.written := rfl
@[simp] theorem State.retire_pending (s : State) (c : Nat) : (s.retire c).pending = c := rfl
@[simp] theorem State.retire_opcode (s : State) (c : Nat) : (s.retire c).opcode = s.opcode := rfl
@[simp] theorem State.retire_addrLatch (s : State) (c : Nat) : (s.retire c).addrLatch = s.addrLatch := rfl
@[simp] theorem State.retire_dataLatch (s : State) (c : Nat) : (s.retire c).dataLatch = Config.freeDataLatch s.draws := rfl
@[simp] theorem State.retire_cyclesTotal (s : State) (c : Nat) : (s.retire c).cyclesTotal = some c := rfl
@[simp] theorem State.retire_unknownSeen (s : State) (c : Nat) : (s.retire c).unknownSeen = s.unknownSeen := rfl
@[simp] theorem State.retire_bus (s : State) (c : Nat) : (s.retire c).bus = s.bus := rfl
@[simp] theorem State.retire_draws (s : State) (c : Nat) : (s.retire c).draws = s.draws + 1 := rfl
@[simp] theorem State.retire_reg (s : State) (c : Nat) (q : Reg) : (s.retire c).reg q = s.reg q := rfl
@[simp] theorem State.retire_regWritten (s : State) (c : Nat) (q : Reg) : (s.retire c).regWritten q = s.regWritten q := rfl
@[simp] theorem State.retire_flag (s : State) (c : Nat) (q : Flag) : (s.retire c).flag q = s.flag q := rfl
@[simp] theorem State.retire_flagWritten (s : State) (c : Nat) (q : Flag) : (s.retire c).flagWritten q = s.flagWritten q := rfl

/-! ## `Fault.machine` -/

@[simp] theorem Fault.shortPastDevice_machine (m : State) : (Fault.shortPastDevice m).machine = m := rfl
@[simp] theorem Fault.unwrittenRead_machine (r : RegName) (m : State) : (Fault.unwrittenRead r m).machine = m := rfl
@[simp] theorem Fault.unknownOpcode_machine (opc : Byte) (a : Word) (m : State) : (Fault.unknownOpcode opc a m).machine = m := rfl

end Sys2Proof.Machine
end

