-- ==== Sys2Proof/Laws/Bus.lean ====
section
/-! SUPPORT. The bus: what replacing a device's body and appending a record change, and that reading an address off the
state depends only on the address map and the storage part of the devices. -/

namespace Sys2Proof.Machine

/-! ## `append` and `setBody`, field by field -/

@[simp] theorem Bus.append_devs (b : Bus) (k : AccessKind) (a : BusAddr) (w : Word) : (b.append k a w).devs = b.devs := rfl
@[simp] theorem Bus.append_map (b : Bus) (k : AccessKind) (a : BusAddr) (w : Word) : (b.append k a w).map = b.map := rfl
@[simp] theorem Bus.append_order (b : Bus) (k : AccessKind) (a : BusAddr) (w : Word) : (b.append k a w).order = b.order := rfl
@[simp] theorem Bus.append_log (b : Bus) (k : AccessKind) (a : BusAddr) (w : Word) :
    (b.append k a w).log = b.log ++ [⟨k, a, w, b.seq⟩] := rfl
@[simp] theorem Bus.append_seq (b : Bus) (k : AccessKind) (a : BusAddr) (w : Word) : (b.append k a w).seq = b.seq + 1 := rfl
@[simp] theorem Bus.append_lastAddress (b : Bus) (k : AccessKind) (a : BusAddr) (w : Word) :
    (b.append k a w).lastAddress = b.lastAddress := rfl
@[simp] theorem Bus.append_lastData (b : Bus) (k : AccessKind) (a : BusAddr) (w : Word) :
    (b.append k a w).lastData = b.lastData := rfl

@[simp] theorem Bus.setBody_map (b : Bus) (d : Nat) (body : DeviceBody) : (b.setBody d body).map = b.map := by
  unfold Bus.setBody; split <;> rfl
@[simp] theorem Bus.setBody_order (b : Bus) (d : Nat) (body : DeviceBody) : (b.setBody d body).order = b.order := by
  unfold Bus.setBody; split <;> rfl
@[simp] theorem Bus.setBody_log (b : Bus) (d : Nat) (body : DeviceBody) : (b.setBody d body).log = b.log := by
  unfold Bus.setBody; split <;> rfl
@[simp] theorem Bus.setBody_seq (b : Bus) (d : Nat) (body : DeviceBody) : (b.setBody d body).seq = b.seq := by
  unfold Bus.setBody; split <;> rfl
@[simp] theorem Bus.setBody_lastAddress (b : Bus) (d : Nat) (body : DeviceBody) :
    (b.setBody d body).lastAddress = b.lastAddress := by
  unfold Bus.setBody; split <;> rfl
@[simp] theorem Bus.setBody_lastData (b : Bus) (d : Nat) (body : DeviceBody) :
    (b.setBody d body).lastData = b.lastData := by
  unfold Bus.setBody; split <;> rfl

theorem Bus.setBody_devs {b : Bus} {d : Nat} {dev : Device} (body : DeviceBody) (h : b.devs[d]? = some dev) :
    (b.setBody d body).devs = b.devs.set d { dev with body := body } := by
  simp [Bus.setBody, h]

/-- Replacing an entry by one with the same image under `f` leaves the image of the list. -/
theorem Bus.setBody_devs_ne {b : Bus} {d e : Nat} (body : DeviceBody) (h : d ≠ e) :
    (b.setBody d body).devs[e]? = b.devs[e]? := by
  cases hd : b.devs[d]? with
  | none => simp [Bus.setBody, hd]
  | some dev => rw [Bus.setBody_devs body hd, List.getElem?_set_ne h]

theorem map_set_same {α β : Type} (f : α → β) {l : List α} {d : Nat} {x y : α} (h : l[d]? = some x) (hf : f y = f x) :
    (l.set d y).map f = l.map f := by
  rw [List.map_set, hf]
  apply List.ext_getElem? fun i => ?_
  rw [List.getElem?_set]
  split
  · subst_vars
    simp only [List.length_map, List.getElem?_map, h, Option.map_some]
    split
    · rfl
    · rename_i hlt
      exact absurd (List.getElem?_eq_some_iff.1 h).1 hlt
  · rfl

/-! ## The address map -/

theorem Bus.owner_congr {b c : Bus} (h : c.map = b.map) (a : Nat) : c.owner a = b.owner a := by
  simp [Bus.owner, h]

theorem Bus.deviceAt_some {b : Bus} {a : BusAddr} {d : Nat} {dev : Device} (h : b.deviceAt a = some (d, dev)) :
    b.owner a.toNat = some d ∧ b.devs[d]? = some dev := by
  unfold Bus.deviceAt at h
  split at h
  · cases h
  · rename_i d' hd
    split at h
    · cases h
    · rename_i dev' hdev
      cases h
      exact ⟨hd, hdev⟩

theorem Bus.deviceAt_of {b : Bus} {a : BusAddr} {d : Nat} {dev : Device} (ho : b.owner a.toNat = some d)
    (hd : b.devs[d]? = some dev) : b.deviceAt a = some (d, dev) := by
  simp [Bus.deviceAt, ho, hd]

/-- The storage part of the device at an address depends on the map and the storage part of the bus. -/
theorem Bus.deviceAt_storage {b c : Bus} (hm : c.map = b.map) (hs : c.storagePart = b.storagePart) (a : BusAddr) :
    (c.deviceAt a).map (fun p => (p.1, p.2.storagePart)) = (b.deviceAt a).map (fun p => (p.1, p.2.storagePart)) := by
  have hget : ∀ d, (c.devs[d]?).map Device.storagePart = (b.devs[d]?).map Device.storagePart := fun d => by
    rw [← List.getElem?_map, ← List.getElem?_map]
    exact congrArg (fun l : List Device => l[d]?) hs
  unfold Bus.deviceAt
  rw [Bus.owner_congr hm]
  cases b.owner a.toNat with
  | none => rfl
  | some d =>
    have h := hget d
    cases hc : c.devs[d]? <;> cases hb : b.devs[d]? <;> simp_all

/-! ## Reading off the state depends on the map and the storage part -/

/-- What `peek` reads from one device. -/
def Device.peekAt (dev : Device) (a : BusAddr) : Option Byte :=
  match dev.body with
  | .ram m | .rom m => (dev.offset a.toNat).map m.get
  | .peripheral _ _ _ _ => none

theorem Device.peekAt_storagePart (dev : Device) (a : BusAddr) : dev.storagePart.peekAt a = dev.peekAt a := by
  obtain ⟨base, size, body⟩ := dev
  cases body <;> rfl

theorem State.peek_eq (s : State) (a : BusAddr) :
    s.peek a = match (s.bus.deviceAt a).map (fun p => (p.1, p.2.storagePart)) with
      | none => some 0xFF#8
      | some (_, dev) => dev.peekAt a := by
  unfold State.peek
  cases s.bus.deviceAt a with
  | none => rfl
  | some p =>
    obtain ⟨d, base, size, body⟩ := p
    cases body <;> rfl

theorem State.peek_congr {s t : State} (hm : t.bus.map = s.bus.map) (hs : t.bus.storagePart = s.bus.storagePart)
    (a : BusAddr) : t.peek a = s.peek a := by
  rw [State.peek_eq, State.peek_eq, Bus.deviceAt_storage hm hs]

theorem keepsMemory_of_storage {s t : State} (hm : t.bus.map = s.bus.map)
    (hs : t.bus.storagePart = s.bus.storagePart) (except : List BusAddr) : keepsMemory except s t :=
  fun a _ => State.peek_congr hm hs a

theorem State.isRam_eq (s : State) (a : BusAddr) :
    s.isRam a = match (s.bus.deviceAt a).map (fun p => (p.1, p.2.storagePart)) with
      | none => false
      | some (_, dev) =>
        match dev.body with
        | .ram _ => (dev.offset a.toNat).isSome
        | .rom _ | .peripheral _ _ _ _ => false := by
  unfold State.isRam
  cases s.bus.deviceAt a with
  | none => rfl
  | some p =>
    obtain ⟨d, base, size, body⟩ := p
    cases body <;> rfl

theorem State.isRam_congr {s t : State} (hm : t.bus.map = s.bus.map) (hs : t.bus.storagePart = s.bus.storagePart)
    (a : BusAddr) : t.isRam a = s.isRam a := by
  rw [State.isRam_eq, State.isRam_eq, Bus.deviceAt_storage hm hs]

theorem Bus.shortFits_eq (b : Bus) (a : BusAddr) :
    b.shortFits a = match (b.deviceAt a).map (fun p => (p.1, p.2.storagePart)) with
      | none => true
      | some (_, dev) => dev.shortFits a.toNat := by
  unfold Bus.shortFits
  cases b.deviceAt a with
  | none => rfl
  | some p =>
    obtain ⟨d, base, size, body⟩ := p
    cases body <;> rfl

theorem Bus.shortFits_congr {b c : Bus} (hm : c.map = b.map) (hs : c.storagePart = b.storagePart) (a : BusAddr) :
    c.shortFits a = b.shortFits a := by
  rw [Bus.shortFits_eq, Bus.shortFits_eq, Bus.deviceAt_storage hm hs]

/-! ## Which device an address has, and its kind, depend on the map and the fixed part -/

/-- The fixed part of the device at an address depends on the map and the fixed part of the bus. -/
theorem Bus.deviceAt_fixed {b c : Bus} (hm : c.map = b.map) (hf : c.fixedPart = b.fixedPart) (a : BusAddr) :
    (c.deviceAt a).map (fun p => (p.1, p.2.fixedPart)) = (b.deviceAt a).map (fun p => (p.1, p.2.fixedPart)) := by
  have hget : ∀ d, (c.devs[d]?).map Device.fixedPart = (b.devs[d]?).map Device.fixedPart := fun d => by
    rw [← List.getElem?_map, ← List.getElem?_map]
    exact congrArg (fun l : List Device => l[d]?) hf
  unfold Bus.deviceAt
  rw [Bus.owner_congr hm]
  cases b.owner a.toNat with
  | none => rfl
  | some d =>
    have h := hget d
    cases hc : c.devs[d]? <;> cases hb : b.devs[d]? <;> simp_all

theorem State.isRam_fixed {s t : State} (hm : t.bus.map = s.bus.map) (hf : t.bus.fixedPart = s.bus.fixedPart)
    (a : BusAddr) : t.isRam a = s.isRam a := by
  have key : ∀ u : State, u.isRam a = match (u.bus.deviceAt a).map (fun p => (p.1, p.2.fixedPart)) with
      | none => false
      | some (_, dev) =>
        match dev.body with
        | .ram _ => (dev.offset a.toNat).isSome
        | .rom _ | .peripheral _ _ _ _ => false := fun u => by
    unfold State.isRam
    cases u.bus.deviceAt a with
    | none => rfl
    | some p =>
      obtain ⟨d, base, size, body⟩ := p
      cases body <;> rfl
  rw [key, key, Bus.deviceAt_fixed hm hf]

theorem Bus.shortFits_fixed {b c : Bus} (hm : c.map = b.map) (hf : c.fixedPart = b.fixedPart) (a : BusAddr) :
    c.shortFits a = b.shortFits a := by
  have key : ∀ u : Bus, u.shortFits a = match (u.deviceAt a).map (fun p => (p.1, p.2.fixedPart)) with
      | none => true
      | some (_, dev) => dev.shortFits a.toNat := fun u => by
    unfold Bus.shortFits
    cases u.deviceAt a with
    | none => rfl
    | some p =>
      obtain ⟨d, base, size, body⟩ := p
      cases body <;> rfl
  rw [key, key, Bus.deviceAt_fixed hm hf]

end Sys2Proof.Machine
end

