-- ==== Sys2Proof/Laws/Access.lean ====
section
/-! SUPPORT. The four bus accesses: everything each can do, said once (20_memory.md R61 to R69). -/

namespace Sys2Proof.Machine

/-- Two states that agree on everything but the bus, the address latch and the count of free values. -/
def sameRegs (s t : State) : Prop := t = { s with bus := t.bus, draws := t.draws, addrLatch := t.addrLatch }

theorem sameRegs.refl (s : State) : sameRegs s s := rfl

theorem sameRegs.trans {s t u : State} (h : sameRegs s t) (h' : sameRegs t u) : sameRegs s u := by
  unfold sameRegs at *
  rw [h', h]

theorem sameRegs.cfg {s t : State} (h : sameRegs s t) : t.cfg = s.cfg := by
  rw [show t = { s with bus := t.bus, draws := t.draws, addrLatch := t.addrLatch } from h]
theorem sameRegs.a {s t : State} (h : sameRegs s t) : t.a = s.a := by
  rw [show t = { s with bus := t.bus, draws := t.draws, addrLatch := t.addrLatch } from h]
theorem sameRegs.x {s t : State} (h : sameRegs s t) : t.x = s.x := by
  rw [show t = { s with bus := t.bus, draws := t.draws, addrLatch := t.addrLatch } from h]
theorem sameRegs.y {s t : State} (h : sameRegs s t) : t.y = s.y := by
  rw [show t = { s with bus := t.bus, draws := t.draws, addrLatch := t.addrLatch } from h]
theorem sameRegs.sp {s t : State} (h : sameRegs s t) : t.sp = s.sp := by
  rw [show t = { s with bus := t.bus, draws := t.draws, addrLatch := t.addrLatch } from h]
theorem sameRegs.pc {s t : State} (h : sameRegs s t) : t.pc = s.pc := by
  rw [show t = { s with bus := t.bus, draws := t.draws, addrLatch := t.addrLatch } from h]
theorem sameRegs.p {s t : State} (h : sameRegs s t) : t.p = s.p := by
  rw [show t = { s with bus := t.bus, draws := t.draws, addrLatch := t.addrLatch } from h]
theorem sameRegs.written {s t : State} (h : sameRegs s t) : t.written = s.written := by
  rw [show t = { s with bus := t.bus, draws := t.draws, addrLatch := t.addrLatch } from h]
theorem sameRegs.pending {s t : State} (h : sameRegs s t) : t.pending = s.pending := by
  rw [show t = { s with bus := t.bus, draws := t.draws, addrLatch := t.addrLatch } from h]
theorem sameRegs.opcode {s t : State} (h : sameRegs s t) : t.opcode = s.opcode := by
  rw [show t = { s with bus := t.bus, draws := t.draws, addrLatch := t.addrLatch } from h]
theorem sameRegs.dataLatch {s t : State} (h : sameRegs s t) : t.dataLatch = s.dataLatch := by
  rw [show t = { s with bus := t.bus, draws := t.draws, addrLatch := t.addrLatch } from h]
theorem sameRegs.cyclesTotal {s t : State} (h : sameRegs s t) : t.cyclesTotal = s.cyclesTotal := by
  rw [show t = { s with bus := t.bus, draws := t.draws, addrLatch := t.addrLatch } from h]
theorem sameRegs.unknownSeen {s t : State} (h : sameRegs s t) : t.unknownSeen = s.unknownSeen := by
  rw [show t = { s with bus := t.bus, draws := t.draws, addrLatch := t.addrLatch } from h]
theorem sameRegs.reg {s t : State} (h : sameRegs s t) (q : Reg) : t.reg q = s.reg q := by
  rw [show t = { s with bus := t.bus, draws := t.draws, addrLatch := t.addrLatch } from h]; rfl
theorem sameRegs.regWritten {s t : State} (h : sameRegs s t) (q : Reg) : t.regWritten q = s.regWritten q := by
  rw [show t = { s with bus := t.bus, draws := t.draws, addrLatch := t.addrLatch } from h]; rfl
theorem sameRegs.flag {s t : State} (h : sameRegs s t) (q : Flag) : t.flag q = s.flag q := by
  rw [show t = { s with bus := t.bus, draws := t.draws, addrLatch := t.addrLatch } from h]; rfl
theorem sameRegs.flagWritten {s t : State} (h : sameRegs s t) (q : Flag) : t.flagWritten q = s.flagWritten q := by
  rw [show t = { s with bus := t.bus, draws := t.draws, addrLatch := t.addrLatch } from h]; rfl

/-- One bus access: the core kept, one record appended, the platform kept, and well-formed devices kept. -/
structure Accessed (k : AccessKind) (a : BusAddr) (w : Word) (s t : State) : Prop where
  core : sameRegs s t
  latch : t.addrLatch = s.addrLatch
  map : t.bus.map = s.bus.map
  order : t.bus.order = s.bus.order
  lastAddress : t.bus.lastAddress = s.bus.lastAddress
  lastData : t.bus.lastData = s.bus.lastData
  log : t.bus.log = s.bus.log ++ [⟨k, a, w, s.bus.seq⟩]
  seq : t.bus.seq = s.bus.seq + 1
  fixed : t.bus.fixedPart = s.bus.fixedPart
  wf : s.bus.devs.all Device.wf = true → t.bus.devs.all Device.wf = true
  /-- no device but the one that owns the address changes (20_memory.md R62) -/
  others : ∀ d, s.bus.owner a.toNat ≠ some d → t.bus.devs[d]? = s.bus.devs[d]?

/-- A device's part of an access, before its record. -/
structure Touched (s t : State) : Prop where
  core : sameRegs s t
  latch : t.addrLatch = s.addrLatch
  map : t.bus.map = s.bus.map
  order : t.bus.order = s.bus.order
  lastAddress : t.bus.lastAddress = s.bus.lastAddress
  lastData : t.bus.lastData = s.bus.lastData
  log : t.bus.log = s.bus.log
  seq : t.bus.seq = s.bus.seq
  fixed : t.bus.fixedPart = s.bus.fixedPart
  wf : s.bus.devs.all Device.wf = true → t.bus.devs.all Device.wf = true

theorem Touched.refl (s : State) : Touched s s := ⟨rfl, rfl, rfl, rfl, rfl, rfl, rfl, rfl, rfl, id⟩

theorem Touched.useDraws {s t : State} (h : Touched s t) (n : Nat) : Touched s (t.useDraws n) :=
  ⟨h.core.trans rfl, h.latch, h.map, h.order, h.lastAddress, h.lastData, h.log, h.seq, h.fixed, h.wf⟩

theorem Touched.record {s t : State} (h : Touched s t) (k : AccessKind) (a : BusAddr) (w : Word)
    (others : ∀ d, s.bus.owner a.toNat ≠ some d → t.bus.devs[d]? = s.bus.devs[d]?) :
    Accessed k a w s (t.record k a w) where
  others := others
  core := h.core.trans rfl
  latch := h.latch
  map := h.map
  order := h.order
  lastAddress := h.lastAddress
  lastData := h.lastData
  log := by simp [h.log, h.seq]
  seq := by simp [h.seq]
  fixed := h.fixed
  wf := h.wf

/-- Replacing the body of a device by one with the same fixed part. -/
theorem touched_setBody {s : State} {d : Nat} {dev : Device} {body : DeviceBody} (hd : s.bus.devs[d]? = some dev)
    (hf : Device.fixedPart { dev with body := body } = dev.fixedPart)
    (hw : dev.wf = true → Device.wf { dev with body := body } = true) : Touched s (s.setBody d body) where
  core := rfl
  latch := rfl
  map := by simp
  order := by simp
  lastAddress := by simp
  lastData := by simp
  log := by simp
  seq := by simp
  fixed := by
    simp only [Bus.fixedPart, State.setBody_bus, Bus.setBody_devs body hd]
    exact map_set_same Device.fixedPart hd hf
  wf := by
    simp only [State.setBody_bus, Bus.setBody_devs body hd, List.all_eq_true]
    intro h x hx
    rcases List.mem_or_eq_of_mem_set hx with hx | rfl
    · exact h x hx
    · exact hw (h dev (List.mem_of_getElem? hd))

theorem storage_setBody {s : State} {d : Nat} {dev : Device} {body : DeviceBody} (hd : s.bus.devs[d]? = some dev)
    (hf : Device.storagePart { dev with body := body } = dev.storagePart) :
    (s.setBody d body).bus.storagePart = s.bus.storagePart := by
  simp only [Bus.storagePart, State.setBody_bus, Bus.setBody_devs body hd]
  exact map_set_same Device.storagePart hd hf

/-! ## Reads -/

theorem storedByte_touched (dev : Device) (m : Memory) (a : Nat) (s : State) :
    Touched s (storedByte dev m a s).2 ∧ (storedByte dev m a s).2.bus = s.bus := by
  unfold storedByte
  split
  · exact ⟨Touched.refl s, rfl⟩
  · exact ⟨(Touched.refl s).useDraws 1, rfl⟩

/-- A peripheral's read changes only its own storage (20_memory.md R62). -/
theorem touched_own {s : State} {d : Nat} {dev : Device} {u : Nat} {own : List Byte} {before after : Bool}
    (hd : s.bus.devs[d]? = some dev) (hb : dev.body = .peripheral u own before after) (own' : List Byte) :
    Touched s (s.setBody d (.peripheral u own' before after)) ∧
      (s.setBody d (.peripheral u own' before after)).bus.storagePart = s.bus.storagePart := by
  refine ⟨touched_setBody hd ?_ ?_, storage_setBody hd ?_⟩
  · simp [Device.fixedPart, hb]
  · simp [Device.wf]
  · simp [Device.storagePart, hb]

theorem deviceRead8_touched {d : Nat} {dev : Device} {a : BusAddr} {s : State} (hd : s.bus.devs[d]? = some dev) :
    Touched s (deviceRead8 d dev a s).2 ∧ (deviceRead8 d dev a s).2.bus.storagePart = s.bus.storagePart := by
  unfold deviceRead8
  split
  · have h := storedByte_touched dev ‹_› a.toNat s
    exact ⟨h.1, by rw [h.2]⟩
  · have h := storedByte_touched dev ‹_› a.toNat s
    exact ⟨h.1, by rw [h.2]⟩
  · exact touched_own hd ‹_› _

theorem storedShort_touched (dev : Device) (m : Memory) (a : Nat) (s : State) :
    Touched s (storedByte dev m (a + 1) (storedByte dev m a s).2).2 ∧
      (storedByte dev m (a + 1) (storedByte dev m a s).2).2.bus = s.bus := by
  have h := storedByte_touched dev m a s
  have h' := storedByte_touched dev m (a + 1) (storedByte dev m a s).2
  refine ⟨?_, by rw [h'.2, h.2]⟩
  exact ⟨h.1.core.trans h'.1.core, by rw [h'.1.latch, h.1.latch], by rw [h'.2, h.2], by rw [h'.2, h.2], by rw [h'.2, h.2], by rw [h'.2, h.2],
    by rw [h'.2, h.2], by rw [h'.2, h.2], by rw [h'.2, h.2], by rw [h'.2, h.2]; exact id⟩

theorem deviceRead16_touched {d : Nat} {dev : Device} {a : BusAddr} {s : State} (hd : s.bus.devs[d]? = some dev) :
    Touched s (deviceRead16 d dev a s).2 ∧ (deviceRead16 d dev a s).2.bus.storagePart = s.bus.storagePart := by
  unfold deviceRead16
  split
  · have h := storedShort_touched dev ‹_› a.toNat s
    exact ⟨h.1, by simp only [h.2]⟩
  · have h := storedShort_touched dev ‹_› a.toNat s
    exact ⟨h.1, by simp only [h.2]⟩
  · exact touched_own hd ‹_› _

theorem deviceRead8_others {d e : Nat} {dev : Device} {a : BusAddr} {s : State} (h : d ≠ e) :
    (deviceRead8 d dev a s).2.bus.devs[e]? = s.bus.devs[e]? := by
  unfold deviceRead8
  split
  · rw [(storedByte_touched dev _ a.toNat s).2]
  · rw [(storedByte_touched dev _ a.toNat s).2]
  · exact Bus.setBody_devs_ne _ h

theorem deviceRead16_others {d e : Nat} {dev : Device} {a : BusAddr} {s : State} (h : d ≠ e) :
    (deviceRead16 d dev a s).2.bus.devs[e]? = s.bus.devs[e]? := by
  unfold deviceRead16
  split
  · rw [(storedShort_touched dev _ a.toNat s).2]
  · rw [(storedShort_touched dev _ a.toNat s).2]
  · exact Bus.setBody_devs_ne _ h

theorem memRead8_accessed (a : BusAddr) (s : State) :
    Accessed .read a ((memRead8 a s).1.setWidth 16) s (memRead8 a s).2 := by
  unfold memRead8
  split
  · exact (Touched.refl s).record _ _ _ fun _ _ => rfl
  · have h := Bus.deviceAt_some ‹_›
    exact (deviceRead8_touched h.2).1.record _ _ _ fun e he => deviceRead8_others fun hd => he (hd ▸ h.1)

theorem memRead8_storage (a : BusAddr) (s : State) : (memRead8 a s).2.bus.storagePart = s.bus.storagePart := by
  unfold memRead8
  split
  · rfl
  · exact (deviceRead8_touched (Bus.deviceAt_some ‹_›).2).2

theorem memRead16_accessed {a : BusAddr} {s : State} {r : Word × State} (h : memRead16 a s = .ok r) :
    Accessed .read a r.1 s r.2 ∧ r.2.bus.storagePart = s.bus.storagePart := by
  unfold memRead16 at h
  split at h
  · cases h; exact ⟨(Touched.refl s).record _ _ _ fun _ _ => rfl, rfl⟩
  · split at h
    · cases h
      have hd := Bus.deviceAt_some ‹_›
      have h := deviceRead16_touched (a := a) hd.2
      exact ⟨h.1.record _ _ _ fun e he => deviceRead16_others fun h' => he (h' ▸ hd.1), h.2⟩
    · cases h

/-- A short read completes exactly when it fits its device (20_memory.md R65, R67). -/
theorem memRead16_ok_iff (a : BusAddr) (s : State) : (∃ r, memRead16 a s = .ok r) ↔ s.bus.shortFits a = true := by
  unfold memRead16 Bus.shortFits
  cases s.bus.deviceAt a with
  | none => simp
  | some p => by_cases hf : p.2.shortFits a.toNat = true <;> simp [hf]

theorem memRead16_error {a : BusAddr} {s : State} {f : Fault} (h : memRead16 a s = .error f) :
    f = .shortPastDevice s ∧ s.bus.shortFits a = false := by
  unfold memRead16 at h
  unfold Bus.shortFits
  split at h
  · cases h
  · split at h
    · cases h
    · cases h; exact ⟨rfl, Bool.not_eq_true _ ▸ ‹¬ _›⟩

/-- A short read that does not fit its device faults and does nothing (20_memory.md R65; 60_exceptions.md R311). -/
theorem memRead16_of_not_fits {a : BusAddr} {s : State} (h : s.bus.shortFits a = false) :
    memRead16 a s = .error (.shortPastDevice s) := by
  cases hr : memRead16 a s with
  | ok r => have := (memRead16_ok_iff a s).1 ⟨r, hr⟩; simp [h] at this
  | error f => rw [(memRead16_error hr).1]

/-- A byte read of an address whose contents the state shows: the value and the one record (20_memory.md R66). -/
theorem memRead8_of_peek {a : BusAddr} {s : State} {v : Byte} (h : s.peek a = some v) :
    memRead8 a s = (v, s.record .read a (v.setWidth 16)) := by
  unfold State.peek at h
  unfold memRead8
  split at h
  · cases h; simp_all
  · split at h
    · rename_i hb
      unfold deviceRead8 storedByte
      simp only [hb]
      cases ho : Device.offset _ a.toNat <;> simp_all
    · rename_i hb
      unfold deviceRead8 storedByte
      simp only [hb]
      cases ho : Device.offset _ a.toNat <;> simp_all
    · cases h

/-! ## Writes -/

theorem storeByte_wf {dev : Device} {m : Memory} (a : Nat) (v : Byte) (h : (m.wf && m.within dev.size) = true) :
    ((storeByte dev m a v).wf && (storeByte dev m a v).within dev.size) = true := by
  simp only [Bool.and_eq_true] at h ⊢
  unfold storeByte
  split
  · rename_i off ho
    unfold Device.offset at ho
    split at ho
    · cases ho
      exact ⟨Memory.wf_set _ _ h.1, Memory.within_set _ h.2 (by omega)⟩
    · cases ho
  · exact h

theorem touched_store {s : State} {d : Nat} {dev : Device} {m m' : Memory} (hd : s.bus.devs[d]? = some dev)
    (hb : dev.body = .ram m) (hw : (m.wf && m.within dev.size) = true → (m'.wf && m'.within dev.size) = true) :
    Touched s (s.setBody d (.ram m')) := by
  refine touched_setBody hd ?_ ?_
  · simp [Device.fixedPart, hb]
  · simpa [Device.wf, hb] using hw

theorem deviceWrite8_touched {d : Nat} {dev : Device} {a : BusAddr} {v : Byte} {s : State}
    (hd : s.bus.devs[d]? = some dev) : Touched s (deviceWrite8 d dev a v s) := by
  unfold deviceWrite8
  split
  · exact touched_store hd ‹_› (storeByte_wf _ _)
  · exact Touched.refl s
  · exact (touched_own hd ‹_› _).1

theorem deviceWrite16_touched {d : Nat} {dev : Device} {a : BusAddr} {v : Word} {s : State}
    (hd : s.bus.devs[d]? = some dev) : Touched s (deviceWrite16 d dev a v s) := by
  unfold deviceWrite16
  split
  · exact touched_store hd ‹_› fun h => storeByte_wf _ _ (storeByte_wf _ _ h)
  · exact Touched.refl s
  · exact (touched_own hd ‹_› _).1

theorem deviceWrite8_others {d e : Nat} {dev : Device} {a : BusAddr} {v : Byte} {s : State} (h : d ≠ e) :
    (deviceWrite8 d dev a v s).bus.devs[e]? = s.bus.devs[e]? := by
  unfold deviceWrite8
  split
  · exact Bus.setBody_devs_ne _ h
  · rfl
  · exact Bus.setBody_devs_ne _ h

theorem deviceWrite16_others {d e : Nat} {dev : Device} {a : BusAddr} {v : Word} {s : State} (h : d ≠ e) :
    (deviceWrite16 d dev a v s).bus.devs[e]? = s.bus.devs[e]? := by
  unfold deviceWrite16
  split
  · exact Bus.setBody_devs_ne _ h
  · rfl
  · exact Bus.setBody_devs_ne _ h

/-- What a byte write does to the bus depends on the bus alone. -/
theorem memWrite8_bus (a : BusAddr) (v : Byte) {s t : State} (h : t.bus = s.bus) :
    (memWrite8 a v t).bus = (memWrite8 a v s).bus := by
  unfold memWrite8
  rw [h]
  split
  · simp [h]
  · unfold deviceWrite8
    split <;> simp [h]

theorem memWrite8_accessed (a : BusAddr) (v : Byte) (s : State) :
    Accessed .write a (v.setWidth 16) s (memWrite8 a v s) := by
  unfold memWrite8
  split
  · exact (Touched.refl s).record _ _ _ fun _ _ => rfl
  · have h := Bus.deviceAt_some ‹_›
    exact (deviceWrite8_touched h.2).record _ _ _ fun e he => deviceWrite8_others fun hd => he (hd ▸ h.1)

theorem memWrite16_bus {a : BusAddr} {v : Word} {s t s' t' : State} (h : t.bus = s.bus)
    (ht : memWrite16 a v t = .ok t') (hs : memWrite16 a v s = .ok s') : t'.bus = s'.bus := by
  unfold memWrite16 at ht hs
  rw [h] at ht
  split at hs
  · simp_all
    subst hs ht
    simp [h]
  · rename_i hd
    simp only [hd] at ht
    split at hs
    · rename_i hf
      rw [if_pos hf] at ht
      cases hs
      cases ht
      unfold deviceWrite16
      split <;> simp [h]
    · cases hs

theorem memWrite16_accessed {a : BusAddr} {v : Word} {s t : State} (h : memWrite16 a v s = .ok t) :
    Accessed .write a v s t := by
  unfold memWrite16 at h
  split at h
  · cases h; exact (Touched.refl s).record _ _ _ fun _ _ => rfl
  · split at h
    · cases h
      have h := Bus.deviceAt_some ‹_›
      exact (deviceWrite16_touched h.2).record _ _ _ fun e he => deviceWrite16_others fun hd => he (hd ▸ h.1)
    · cases h

/-- A short write completes exactly when it fits its device (20_memory.md R65, R69). -/
theorem memWrite16_ok_iff (a : BusAddr) (v : Word) (s : State) :
    (∃ t, memWrite16 a v s = .ok t) ↔ s.bus.shortFits a = true := by
  unfold memWrite16 Bus.shortFits
  cases s.bus.deviceAt a with
  | none => simp
  | some p => by_cases hf : p.2.shortFits a.toNat = true <;> simp [hf]

theorem memWrite16_error {a : BusAddr} {v : Word} {s : State} {f : Fault} (h : memWrite16 a v s = .error f) :
    f = .shortPastDevice s ∧ s.bus.shortFits a = false := by
  unfold memWrite16 at h
  unfold Bus.shortFits
  split at h
  · cases h
  · split at h
    · cases h
    · cases h; exact ⟨rfl, Bool.not_eq_true _ ▸ ‹¬ _›⟩

/-- A short write that does not fit its device faults and does nothing (20_memory.md R65; 60_exceptions.md R311). -/
theorem memWrite16_of_not_fits {a : BusAddr} {v : Word} {s : State} (h : s.bus.shortFits a = false) :
    memWrite16 a v s = .error (.shortPastDevice s) := by
  cases hr : memWrite16 a v s with
  | ok r => have := (memWrite16_ok_iff a v s).1 ⟨r, hr⟩; simp [h] at this
  | error f => rw [(memWrite16_error hr).1]

/-! ## What a write leaves at each address -/

theorem Bus.deviceAt_setBody {b : Bus} {d : Nat} {dev : Device} (body : DeviceBody) (hd : b.devs[d]? = some dev)
    (a : BusAddr) : (b.setBody d body).deviceAt a =
      (b.deviceAt a).map fun p => if p.1 = d then (d, { dev with body := body }) else p := by
  unfold Bus.deviceAt
  rw [Bus.owner_congr (Bus.setBody_map b d body)]
  cases b.owner a.toNat with
  | none => rfl
  | some e =>
    simp only [Bus.setBody_devs body hd, List.getElem?_set]
    by_cases he : d = e
    · subst he
      simp [(List.getElem?_eq_some_iff.1 hd).1]
    · simp only [he, if_false]
      cases b.devs[e]? <;> simp [Ne.symm he]

@[simp] theorem Bus.append_deviceAt (b : Bus) (k : AccessKind) (a : BusAddr) (w : Word) (a' : BusAddr) :
    (b.append k a w).deviceAt a' = b.deviceAt a' := rfl

theorem Device.offset_inj {dev : Device} {a a' off off' : Nat} (h : dev.offset a = some off)
    (h' : dev.offset a' = some off') (hne : a ≠ a') : off ≠ off' := by
  unfold Device.offset at h h'
  split at h <;> split at h' <;> simp_all
  omega

theorem storeByte_peek_same {dev : Device} {m : Memory} (hm : m.wf = true) (a : Nat) (v : Byte) :
    (dev.offset a).map (storeByte dev m a v).get = (dev.offset a).map fun _ => v := by
  unfold storeByte
  cases ha : dev.offset a with
  | none => rfl
  | some off => simp [Memory.get_set_same v hm]

theorem storeByte_peek_other {dev : Device} (m : Memory) {a a' : Nat} (v : Byte) (hne : a' ≠ a) :
    (dev.offset a').map (storeByte dev m a v).get = (dev.offset a').map m.get := by
  unfold storeByte
  cases ha : dev.offset a with
  | none => rfl
  | some off =>
    cases ha' : dev.offset a' with
    | none => rfl
    | some off' => simp [Memory.get_set_other m v (Device.offset_inj ha' ha hne)]

theorem peek_record (s : State) (k : AccessKind) (a a' : BusAddr) (w : Word) :
    (s.record k a w).peek a' = s.peek a' := rfl

theorem peek_setBody_ram {s : State} {d : Nat} {dev : Device} {m m' : Memory} (hd : s.bus.devs[d]? = some dev)
    (hb : dev.body = .ram m) (a : BusAddr)
    (h : s.bus.owner a.toNat = some d → (dev.offset a.toNat).map m'.get = (dev.offset a.toNat).map m.get) :
    (s.setBody d (.ram m')).peek a = s.peek a := by
  unfold State.peek
  rw [State.setBody_bus, Bus.deviceAt_setBody _ hd]
  cases hp : s.bus.deviceAt a with
  | none => rfl
  | some p =>
    obtain ⟨e, dev'⟩ := p
    have hp' := Bus.deviceAt_some hp
    by_cases he : e = d
    · subst he
      cases hp'.2.symm.trans hd
      simpa [hb, Device.offset] using h hp'.1
    · simp [he]

/-- A byte write changes no other address (20_memory.md R68). -/
theorem memWrite8_peek_other {a a' : BusAddr} (v : Byte) (s : State) (hne : a' ≠ a) :
    (memWrite8 a v s).peek a' = s.peek a' := by
  have hn : a'.toNat ≠ a.toNat := fun h => hne (BitVec.eq_of_toNat_eq h)
  unfold memWrite8
  split
  · rfl
  · rename_i d dev hdev
    have hd := (Bus.deviceAt_some hdev).2
    rw [peek_record]
    unfold deviceWrite8
    split
    · exact peek_setBody_ram hd ‹_› a' fun _ => storeByte_peek_other _ v hn
    · rfl
    · exact State.peek_congr (by simp) (touched_own hd ‹_› _).2 a'

/-- A byte written is read back in RAM; anywhere else the address holds what it held (20_memory.md R63, R64, R68). -/
theorem memWrite8_peek_same {a : BusAddr} (v : Byte) {s : State} (hw : s.bus.devs.all Device.wf = true) :
    (memWrite8 a v s).peek a = storedAs s a v := by
  unfold memWrite8 storedAs State.isRam
  cases hdev : s.bus.deviceAt a with
  | none => rfl
  | some p =>
    obtain ⟨d, dev⟩ := p
    have hd := (Bus.deviceAt_some hdev).2
    have hdw : dev.wf = true := List.all_eq_true.1 hw dev (List.mem_of_getElem? hd)
    obtain ⟨base, size, body⟩ := dev
    cases body with
    | ram m =>
      have hm : m.wf = true := by simp [Device.wf] at hdw; exact hdw.1
      have h := storeByte_peek_same (dev := ⟨base, size, .ram m⟩) hm a.toNat v
      simp only [deviceWrite8, State.peek, State.record_bus, Bus.append_deviceAt, State.setBody_bus, Bus.deviceAt_setBody _ hd, hdev,
        Option.map_some, if_true, Device.offset] at h ⊢
      by_cases hc : base ≤ a.toNat ∧ a.toNat < base + size
      · simp_all
      · simp [if_neg hc]
    | rom m => simp [peek_record, deviceWrite8]
    | peripheral u own before after =>
      simp only [peek_record, deviceWrite8, Bool.false_eq_true, if_false]
      exact State.peek_congr (by simp) (touched_own hd rfl _).2 a

/-- A stack address is the page and the byte in it (42_transfer_stack.md R180). -/
theorem stackAddr_toNat (cfg : Config) (b : Byte) :
    (stackAddr cfg b).toNat = cfg.stackPage.toNat * 256 + b.toNat := by
  have hb := b.isLt
  have hp := cfg.stackPage.isLt
  have : (cfg.stackPage ++ b).toNat = cfg.stackPage.toNat * 256 + b.toNat := by
    rw [BitVec.toNat_append, Nat.shiftLeft_eq, Nat.mul_comm, ← Nat.two_pow_add_eq_or_of_lt hb]
  rw [stackAddr, BitVec.toNat_setWidth, this]
  omega

theorem stackAddr_inj {cfg : Config} {a b : Byte} (h : stackAddr cfg a = stackAddr cfg b) : a = b := by
  have h' := congrArg BitVec.toNat h
  rw [stackAddr_toNat, stackAddr_toNat] at h'
  exact BitVec.eq_of_toNat_eq (by omega)

/-- A short write changes no address but its two (20_memory.md R69). -/
theorem memWrite16_peek_other {a a' : BusAddr} {v : Word} {s t : State} (h : memWrite16 a v s = .ok t)
    (hne : a'.toNat ≠ a.toNat) (hne' : a'.toNat ≠ a.toNat + 1) : t.peek a' = s.peek a' := by
  unfold memWrite16 at h
  split at h
  · cases h; rfl
  · rename_i d dev hdev
    have hd := (Bus.deviceAt_some hdev).2
    split at h
    · cases h
      rw [peek_record]
      unfold deviceWrite16
      split
      · exact peek_setBody_ram hd ‹_› a' fun _ => by
          rw [storeByte_peek_other _ _ hne', storeByte_peek_other _ _ hne]
      · rfl
      · exact State.peek_congr (by simp) (touched_own hd ‹_› _).2 a'
    · cases h

/-- Only 16-bit addresses have an owner (20_memory.md R55). -/
theorem Bus.owner_lt {b : Bus} (hw : b.wf = true) {a d : Nat} (h : b.owner a = some d) : a < 0x10000 := by
  simp only [Bus.wf, Bool.and_eq_true, List.all_eq_true] at hw
  unfold Bus.owner at h
  cases hf : b.map.find? fun r => decide (r.first ≤ a) && decide (a < r.first + r.count) with
  | none => rw [hf] at h; cases h
  | some r =>
    have h1 := hw.1.2 r (List.mem_of_find?_eq_some hf)
    have h2 := List.find?_some hf
    simp only [MapRange.wf, Bool.and_eq_true, decide_eq_true_eq] at h1 h2
    omega

/-- A short written is there byte by byte: in RAM, its two bytes; anywhere else what was there (20_memory.md R69,
R75). -/
theorem memWrite16_stores {a : BusAddr} {w : Word} {s t : State} (hw : s.bus.wf = true)
    (h : memWrite16 a w s = .ok t) : storesShort s t a w := by
  have hdw : s.bus.devs.all Device.wf = true := by
    simp only [Bus.wf, Bool.and_eq_true] at hw
    exact hw.1.1
  unfold memWrite16 at h
  unfold storesShort
  cases hdev : s.bus.deviceAt a with
  | none =>
    rw [hdev] at h
    cases h
    refine ⟨by simp [storedAs, State.isRam, hdev, peek_record], fun ho => ?_⟩
    have : s.bus.deviceAt (a + 1) = none := by
      unfold Bus.deviceAt at hdev ⊢
      rw [← show s.bus.owner a.toNat = s.bus.owner (a + 1).toNat from ho]
      cases hown : s.bus.owner a.toNat with
      | none => rfl
      | some d =>
        rw [hown] at hdev
        cases hd : s.bus.devs[d]? <;> simp_all
    simp only [storedAs, State.isRam, this, peek_record, Bool.false_eq_true, if_false]
  | some p =>
    obtain ⟨d, dev⟩ := p
    have hp := Bus.deviceAt_some hdev
    have hlt := Bus.owner_lt hw hp.1
    have ha1 : (a + 1).toNat = a.toNat + 1 := by bv_omega
    have hd1 : s.sameOwner a (a + 1) → s.bus.deviceAt (a + 1) = some (d, dev) := fun ho =>
      Bus.deviceAt_of ((show s.bus.owner a.toNat = s.bus.owner (a + 1).toNat from ho) ▸ hp.1) hp.2
    have hwd : dev.wf = true := List.all_eq_true.1 hdw dev (List.mem_of_getElem? hp.2)
    rw [hdev] at h
    simp only at h
    split at h
    · cases h
      obtain ⟨base, size, body⟩ := dev
      cases body with
      | ram m =>
        have hm : (m.wf && m.within size) = true := hwd
        have hm1 : m.wf = true := by simp only [Bool.and_eq_true] at hm; exact hm.1
        have hm2 := storeByte_wf (dev := ⟨base, size, .ram m⟩) a.toNat (lowByte w) hm
        have hm3 : (storeByte ⟨base, size, .ram m⟩ m a.toNat (lowByte w)).wf = true := by
          simp only [Bool.and_eq_true] at hm2; exact hm2.1
        have p1 := (storeByte_peek_other (dev := ⟨base, size, .ram m⟩)
            (storeByte ⟨base, size, .ram m⟩ m a.toNat (lowByte w)) (a := a.toNat + 1) (a' := a.toNat) (highByte w)
            (by omega)).trans (storeByte_peek_same hm1 a.toNat (lowByte w))
        have p2 := storeByte_peek_same (dev := ⟨base, size, .ram m⟩) hm3 (a.toNat + 1) (highByte w)
        constructor
        · simp only [storedAs, State.isRam, deviceWrite16, State.peek, State.record_bus, Bus.append_deviceAt,
            State.setBody_bus, Bus.deviceAt_setBody _ hp.2, hdev, Option.map_some, if_true, Device.offset] at p1 ⊢
          by_cases hc : base ≤ a.toNat ∧ a.toNat < base + size
          · simp_all
          · simp [if_neg hc]
        · intro ho
          simp only [storedAs, State.isRam, deviceWrite16, State.peek, State.record_bus, Bus.append_deviceAt,
            State.setBody_bus, Bus.deviceAt_setBody _ hp.2, hd1 ho, Option.map_some, if_true, Device.offset, ha1]
            at p2 ⊢
          by_cases hc : base ≤ a.toNat + 1 ∧ a.toNat + 1 < base + size
          · simp_all
          · simp [if_neg hc]
      | rom m =>
        exact ⟨by simp [peek_record, deviceWrite16, storedAs, State.isRam, hdev],
          fun ho => by
            simp only [peek_record, deviceWrite16, storedAs, State.isRam, hd1 ho, Bool.false_eq_true, if_false]⟩
      | peripheral u own before after =>
        have e := State.peek_congr (s := s) (t := deviceWrite16 d ⟨base, size, .peripheral u own before after⟩ a w s)
          (by simp [deviceWrite16]) (touched_own hp.2 rfl _).2
        exact ⟨by simp [peek_record, e, storedAs, State.isRam, hdev],
          fun ho => by simp only [peek_record, e, storedAs, State.isRam, hd1 ho, Bool.false_eq_true, if_false]⟩
    · cases h

/-- A bus with the same map, clock order and fixed parts, and well-formed devices, is well formed. -/
theorem Bus.wf_of {b c : Bus} (hw : b.wf = true) (hm : c.map = b.map) (ho : c.order = b.order)
    (hf : c.fixedPart = b.fixedPart) (hd : c.devs.all Device.wf = true) : c.wf = true := by
  have hl : c.devs.length = b.devs.length := by simpa [Bus.fixedPart] using congrArg List.length hf
  simp only [Bus.wf, Bus.orderOk, Bool.and_eq_true] at hw ⊢
  rw [hm, ho, hl]
  exact ⟨⟨hd, hw.1.2⟩, hw.2⟩

theorem Bus.wf_devs {b : Bus} (h : b.wf = true) : b.devs.all Device.wf = true := by
  simp only [Bus.wf, Bool.and_eq_true] at h
  exact h.1.1

/-- An access keeps a well-formed bus. -/
theorem Accessed.busWf {k : AccessKind} {a : BusAddr} {w : Word} {s t : State} (h : Accessed k a w s t)
    (hw : s.bus.wf = true) : t.bus.wf = true :=
  Bus.wf_of hw h.map h.order h.fixed (h.wf (Bus.wf_devs hw))

/-- A short read of an address whose two bytes the state shows (20_memory.md R67). -/
theorem memRead16_of_peek16 {a : BusAddr} {s : State} {w : Word} (h : s.peek16 a = some w) :
    memRead16 a s = .ok (w, s.record .read a w) := by
  unfold State.peek16 at h
  unfold memRead16
  cases hdev : s.bus.deviceAt a with
  | none => rw [hdev] at h; cases h; rfl
  | some p =>
    obtain ⟨d, dev⟩ := p
    rw [hdev] at h
    simp only at h ⊢
    have key : ∀ m, (match dev.offset a.toNat, dev.offset (a.toNat + 1) with
        | some lo, some hi => some (joinLE (Memory.get m lo) (Memory.get m hi))
        | _, _ => none) = some w → dev.shortFits a.toNat = true ∧ ∃ lo hi, dev.offset a.toNat = some lo ∧
          dev.offset (a.toNat + 1) = some hi ∧ joinLE (Memory.get m lo) (Memory.get m hi) = w := by
      intro m hm
      cases h1 : dev.offset a.toNat with
      | none => simp [h1] at hm
      | some lo =>
        cases h2 : dev.offset (a.toNat + 1) with
        | none => simp [h1, h2] at hm
        | some hi =>
          refine ⟨?_, lo, hi, rfl, rfl, by simpa [h1, h2] using hm⟩
          unfold Device.offset at h2
          split at h2
          · simp [Device.shortFits]; omega
          · cases h2
    cases hb : dev.body with
    | ram m =>
      rw [hb] at h
      obtain ⟨hf, lo, hi, h1, h2, h3⟩ := key m h
      simp [hf, deviceRead16, hb, storedByte, h1, h2, h3]
    | rom m =>
      rw [hb] at h
      obtain ⟨hf, lo, hi, h1, h2, h3⟩ := key m h
      simp [hf, deviceRead16, hb, storedByte, h1, h2, h3]
    | peripheral u own before after => rw [hb] at h; cases h

/-- Two bytes of one device are its short (20_memory.md R75). -/
theorem peek16_of_peeks {a : BusAddr} {s : State} {lo hi : Byte} (hw : s.bus.wf = true)
    (ho : s.sameOwner a (a + 1)) (hr : s.isRam a = true) (h1 : s.peek a = some lo) (h2 : s.peek (a + 1) = some hi)
    : s.peek16 a = some (joinLE lo hi) := by
  unfold State.isRam at hr
  cases hdev : s.bus.deviceAt a with
  | none => rw [hdev] at hr; cases hr
  | some p =>
    obtain ⟨d, dev⟩ := p
    have hp := Bus.deviceAt_some hdev
    have hlt := Bus.owner_lt hw hp.1
    have ha1 : (a + 1).toNat = a.toNat + 1 := by bv_omega
    have hd1 : s.bus.deviceAt (a + 1) = some (d, dev) :=
      Bus.deviceAt_of ((show s.bus.owner a.toNat = s.bus.owner (a + 1).toNat from ho) ▸ hp.1) hp.2
    unfold State.peek at h1 h2
    unfold State.peek16
    rw [hdev] at h1
    rw [hd1] at h2
    rw [hdev]
    cases hb : dev.body with
    | ram m =>
      simp only [hb, ha1, Option.map_eq_some_iff] at h1 h2 ⊢
      obtain ⟨o1, e1, rfl⟩ := h1
      obtain ⟨o2, e2, rfl⟩ := h2
      simp [e1, e2]
    | rom m =>
      simp only [hb, ha1, Option.map_eq_some_iff] at h1 h2 ⊢
      obtain ⟨o1, e1, rfl⟩ := h1
      obtain ⟨o2, e2, rfl⟩ := h2
      simp [e1, e2]
    | peripheral u own before after => simp [hb] at h1

end Sys2Proof.Machine
end

