-- ==== Sys2Proof/Laws/Assembly.lean ====
section
/-! SUPPORT. Assembly: everything a registration and a bulk load can do, said once (20_memory.md R52 to R56, R64). -/

namespace Sys2Proof.Machine

theorem Bus.owner_none {b : Bus} {a : Nat} :
    b.owner a = none ↔ ∀ r ∈ b.map, ¬ (r.first ≤ a ∧ a < r.first + r.count) := by
  simp [Bus.owner]

/-- The ranges that end past a point become fewer when a range that holds the point is passed. -/
theorem countP_past {l : List MapRange} {r : MapRange} {a : Nat} (ha : a < r.first + r.count) :
    (r ∈ l → l.countP (fun q => decide (r.first + r.count < q.first + q.count)) <
      l.countP (fun q => decide (a < q.first + q.count))) ∧
    l.countP (fun q => decide (r.first + r.count < q.first + q.count)) ≤
      l.countP (fun q => decide (a < q.first + q.count)) := by
  induction l with
  | nil => simp
  | cons x l ih =>
    simp only [List.countP_cons, decide_eq_true_eq]
    constructor
    · intro hx
      rcases List.mem_cons.1 hx with rfl | hx
      · have := ih.2
        rw [if_neg (by omega), if_pos (by omega)]; omega
      · have := ih.1 hx
        split <;> split <;> omega
    · have := ih.2
      split <;> split <;> omega

/-- The search ends on the first free address: every address passed has an owner. -/
theorem Bus.firstFree_spec (b : Bus) (fuel a : Nat) :
    a ≤ b.firstFree fuel a ∧ (∀ k, a ≤ k → k < b.firstFree fuel a → b.owner k ≠ none) ∧
      (b.map.countP (fun r => decide (a < r.first + r.count)) ≤ fuel → b.owner (b.firstFree fuel a) = none) := by
  induction fuel generalizing a with
  | zero =>
    refine ⟨Nat.le_refl _, fun k h1 h2 => by simp only [Bus.firstFree] at h2; omega, fun h => ?_⟩
    rw [Bus.firstFree, Bus.owner_none]
    intro r hr hh
    have := List.countP_eq_zero.1 (Nat.le_zero.1 h) r hr
    simp at this; omega
  | succ n ih =>
    unfold Bus.firstFree
    split
    · rename_i hf
      refine ⟨Nat.le_refl _, fun k h1 h2 => by omega, fun _ => ?_⟩
      simp [Bus.owner, hf]
    · rename_i r hf
      have hp := List.find?_some hf
      have hm := List.mem_of_find?_eq_some hf
      simp only [Bool.and_eq_true, decide_eq_true_eq] at hp
      obtain ⟨h1, h2, h3⟩ := ih (r.first + r.count)
      refine ⟨by omega, fun k hk hk' => ?_, fun hc => h3 ?_⟩
      · by_cases hh : k < r.first + r.count
        · intro hn
          exact Bus.owner_none.1 hn r hm ⟨by omega, hh⟩
        · exact h2 k (by omega) hk'
      · have := (countP_past (l := b.map) hp.2).1 hm
        omega

theorem Bus.firstFree_congr {b c : Bus} (h : c.map = b.map) (fuel a : Nat) : c.firstFree fuel a = b.firstFree fuel a := by
  induction fuel generalizing a with
  | zero => rfl
  | succ n ih => unfold Bus.firstFree; simp only [h, ih]

/-- A range of the map comes after those before it. -/
theorem Bus.owner_append {b c : Bus} {r : MapRange} (h : c.map = b.map ++ [r]) (a : Nat) :
    c.owner a = match b.owner a with
      | some e => some e
      | none => if r.first ≤ a ∧ a < r.first + r.count then some r.dev else none := by
  unfold Bus.owner
  rw [h, List.find?_append]
  cases b.map.find? fun r => decide (r.first ≤ a) && decide (a < r.first + r.count) with
  | some x => simp
  | none =>
    simp [List.find?_cons]
    by_cases h1 : r.first ≤ a <;> by_cases h2 : a < r.first + r.count <;> simp [h1, h2]

/-- Every registration that is accepted, whatever it does to the devices. -/
theorem registers_mapRange {b c : Bus} (hm : c.map = b.map) (ho : c.order = b.order) (hl : c.log = b.log)
    (hs : c.seq = b.seq) (ha : c.lastAddress = b.lastAddress) (hd : c.lastData = b.lastData) (d first count : Nat) :
    Registers b d first count ⟨c.mapRange d first count, b.conflicts first count⟩ where
  owner := Bus.owner_append (r := ⟨first, count, d⟩) (by simp [Bus.mapRange, hm])
  warned := by
    simp only [Bus.conflicts, List.any_eq_true, decide_eq_true_eq]
    constructor
    · rintro ⟨r, hr, hh⟩
      exact ⟨max first r.first, by omega, by omega, fun hn => Bus.owner_none.1 hn r hr ⟨by omega, by omega⟩⟩
    · rintro ⟨a, h1, h2, h3⟩
      by_contra hc
      apply h3
      rw [Bus.owner_none]
      intro r hr hh
      exact hc ⟨r, hr, by omega⟩
  clocked := by
    have hf := b.firstFree_spec b.map.length first
    have hg : (b.firstFree b.map.length first < first + count) ↔
        ∃ a, first ≤ a ∧ a < first + count ∧ b.owner a = none := by
      constructor
      · intro h; exact ⟨_, hf.1, h, hf.2.2 List.countP_le_length⟩
      · rintro ⟨a, h1, h2, h3⟩
        by_contra hc
        exact hf.2.1 a h1 (by omega) h3
    rw [← hg]
    simp only [Bus.mapRange, Bus.firstFree_congr hm, hm, ho]
    by_cases hc : d ∈ b.order <;> by_cases hx : b.firstFree b.map.length first < first + count <;> simp [hc, hx]
  order := by
    simp only [Bus.mapRange, ho]
    split
    · exact ⟨[d], rfl, by simp⟩
    · exact ⟨[], by simp, by simp⟩
  once hn := by
    simp only [Bus.mapRange, ho]
    split
    · rename_i h
      simp only [Bool.and_eq_true, Bool.not_eq_true', List.contains_eq_mem, decide_eq_false_iff_not] at h
      exact List.nodup_append.2 ⟨hn, by simp, by rintro a h1 b h2 rfl; simp at h2; subst h2; exact h.2 h1⟩
    · exact hn
  log := ⟨hl, hs⟩
  latch := ⟨ha, hd⟩

/-- The bytes of a store after consecutive ones are set. -/
theorem Memory.get_setAll {m : Memory} (hm : m.wf = true) (off : Nat) (vs : List Byte) (k : Nat) :
    (m.setAll off vs).get k =
      if k < off then m.get k else match vs[k - off]? with | some v => v | none => m.get k := by
  induction vs generalizing m off with
  | nil => simp [Memory.setAll]
  | cons v vs ih =>
    unfold Memory.setAll
    rw [ih (Memory.wf_set off v hm)]
    rcases Nat.lt_trichotomy k off with h | h | h
    · rw [if_pos (by omega), if_pos h, Memory.get_set_other _ _ (by omega)]
    · subst h
      rw [if_pos (by omega), if_neg (by omega), Nat.sub_self]
      exact Memory.get_set_same v hm
    · rw [if_neg (by omega), if_neg (by omega), show k - off = (k - (off + 1)) + 1 by omega, List.getElem?_cons_succ,
        Memory.get_set_other _ _ (by omega)]

theorem Memory.within_setAll {m : Memory} {size off : Nat} {vs : List Byte} (h : m.within size = true)
    (hs : off + vs.length ≤ size) : (m.setAll off vs).within size = true := by
  induction vs generalizing m off with
  | nil => exact h
  | cons v vs ih =>
    rw [List.length_cons] at hs
    exact ih (Memory.within_set v h (by omega)) (by omega)

/-- A ROM's store after a load: canonical, inside the ROM, the image and then ROM_FILL (20_memory.md R64). -/
theorem romContents_spec (size : Nat) (fill image : List Byte) :
    (romContents size fill image).wf = true ∧ (romContents size fill image).within size = true ∧
      ∀ k < size, (romContents size fill image).get k =
        match image[k]? with | some v => v | none => fill[k]?.getD Memory.unlisted := by
  refine ⟨Memory.wf_setAll 0 _ rfl, Memory.within_setAll rfl (by simp), fun k hk => ?_⟩
  rw [romContents, Memory.get_setAll rfl, if_neg (by omega), Nat.sub_zero, List.getElem?_take_of_lt hk,
    List.getElem?_append]
  by_cases h : k < image.length
  · rw [if_pos h, List.getElem?_eq_getElem h]
  · rw [if_neg h, List.getElem?_drop, show image.length + (k - image.length) = k by omega,
      List.getElem?_eq_none (l := image) (by omega)]
    cases fill[k]? <;> rfl

end Sys2Proof.Machine
end

