-- ==== Sys2Proof/Laws/Exec.lean ====
section
/-! SUPPORT. Each shape of instruction as one equation: `exec` of an instruction is the shared operation of its shape, at
its opcode and operand. -/

namespace Sys2Proof.Machine

theorem exec_load {i : Instr} {r : Reg} {o : Operand} (h : (i.mnemonic, r) ∈ Mnemonic.loads) (ho : i.operand = some o)
    (s : State) : exec i s = outcome (load r i.opcode o s) := by
  cases i <;> simp [Mnemonic.loads, Instr.mnemonic] at h <;> subst h <;> cases ho <;> rfl

theorem exec_store {i : Instr} {r : Reg} {o : Operand} (h : (i.mnemonic, r) ∈ Mnemonic.stores) (ho : i.operand = some o)
    (s : State) : exec i s = outcome (store r i.opcode o s) := by
  cases i <;> simp [Mnemonic.stores, Instr.mnemonic] at h <;> subst h <;> cases ho <;> rfl

theorem exec_compare {i : Instr} {r : Reg} {o : Operand} (h : (i.mnemonic, r) ∈ Mnemonic.compares) (ho : i.operand = some o)
    (s : State) : exec i s = outcome (compareReg r i.opcode o s) := by
  cases i <;> simp [Mnemonic.compares, Instr.mnemonic] at h <;> subst h <;> cases ho <;> rfl

theorem exec_adc {i : Instr} {o : Operand} (h : i.mnemonic = .adc) (ho : i.operand = some o) (s : State) :
    exec i s = outcome (arith adcResult i.opcode o s) := by
  cases i <;> cases h <;> cases ho <;> rfl

theorem exec_sbc {i : Instr} {o : Operand} (h : i.mnemonic = .sbc) (ho : i.operand = some o) (s : State) :
    exec i s = outcome (arith sbcResult i.opcode o s) := by
  cases i <;> cases h <;> cases ho <;> rfl

theorem exec_and {i : Instr} {o : Operand} (h : i.mnemonic = .and) (ho : i.operand = some o) (s : State) :
    exec i s = outcome (logic andByte i.opcode o s) := by
  cases i <;> cases h <;> cases ho <;> rfl

theorem exec_ora {i : Instr} {o : Operand} (h : i.mnemonic = .ora) (ho : i.operand = some o) (s : State) :
    exec i s = outcome (logic oraByte i.opcode o s) := by
  cases i <;> cases h <;> cases ho <;> rfl

theorem exec_eor {i : Instr} {o : Operand} (h : i.mnemonic = .eor) (ho : i.operand = some o) (s : State) :
    exec i s = outcome (logic eorByte i.opcode o s) := by
  cases i <;> cases h <;> cases ho <;> rfl

theorem exec_bit {i : Instr} {o : Operand} (h : i.mnemonic = .bit) (ho : i.operand = some o) (s : State) :
    exec i s = outcome (bitTest i.opcode o s) := by
  cases i <;> cases h <;> cases ho <;> rfl

/-- The change of a byte that a read-modify-write instruction makes. -/
def modifier (mn : Mnemonic) : Byte → State → Result (Byte × State) :=
  if mn = .inc then incShift
  else if mn = .dec then decShift
  else if mn = .asl then aslShift
  else if mn = .lsr then lsrShift
  else if mn = .rol then rolShift
  else rorShift

theorem exec_modifyMem {i : Instr} {o : Operand} (h : i.mnemonic ∈ [.inc, .dec, .asl, .lsr, .rol, .ror])
    (ho : i.operand = some o) (s : State) :
    exec i s = outcome (modifyMem (modifier i.mnemonic) i.opcode o s) := by
  cases i <;> simp [Instr.mnemonic] at h <;> cases ho <;> rfl

theorem exec_modifyAcc {i : Instr} (h : i.mnemonic ∈ [.asl, .lsr, .rol, .ror]) (ho : i.operand = none) (s : State) :
    exec i s = outcome (modifyAcc (modifier i.mnemonic) i.opcode s) := by
  cases i <;> simp [Instr.mnemonic] at h <;> cases ho <;> rfl

theorem exec_jmp {i : Instr} {o : Operand} (h : i.mnemonic = .jmp) (ho : i.operand = some o) (s : State) :
    exec i s = outcome (jump i.opcode o s) := by
  cases i <;> cases h <;> cases ho <;> rfl

theorem exec_branch {i : Instr} {f : Flag} {on : Bool} {o : Operand} (h : (i.mnemonic, f, on) ∈ Mnemonic.branches)
    (ho : i.operand = some o) (s : State) : exec i s = outcome (branch f on o s) := by
  cases i <;> simp [Mnemonic.branches, Instr.mnemonic] at h <;> obtain ⟨rfl, rfl⟩ := h <;> cases ho <;> rfl

/-- Every instruction has one of these shapes. -/
inductive Shape (i : Instr) (s : State) : Prop where
  | load (r : Reg) (o : Operand) (h : (i.mnemonic, r) ∈ Mnemonic.loads) (ho : i.operand = some o)
      (he : exec i s = outcome (load r i.opcode o s))
  | store (r : Reg) (o : Operand) (h : (i.mnemonic, r) ∈ Mnemonic.stores) (ho : i.operand = some o)
      (he : exec i s = outcome (store r i.opcode o s))
  | transfer (src dst : Reg)
      (h : (i.mnemonic, src, dst) ∈ [(.tax, .a, .x), (.tay, .a, .y), (.txa, .x, .a), ((.tya : Mnemonic), Reg.y, Reg.a)])
      (ho : i.operand = none) (he : exec i s = outcome (transfer src dst i.opcode s))
  | tsx (h : i.mnemonic = .tsx) (ho : i.operand = none) (he : exec i s = outcome (transferSpToX i.opcode s))
  | txs (h : i.mnemonic = .txs) (ho : i.operand = none) (he : exec i s = outcome (transferXToSp i.opcode s))
  | pha (h : i.mnemonic = .pha) (ho : i.operand = none) (he : exec i s = outcome (pushAcc i.opcode s))
  | php (h : i.mnemonic = .php) (ho : i.operand = none) (he : exec i s = outcome (pushStatus i.opcode s))
  | pla (h : i.mnemonic = .pla) (ho : i.operand = none) (he : exec i s = outcome (pullAcc i.opcode s))
  | plp (h : i.mnemonic = .plp) (ho : i.operand = none) (he : exec i s = outcome (pullStatus i.opcode s))
  | arith (f : Byte → Byte → Bool → ArithOut) (o : Operand) (h : i.mnemonic ∈ [.adc, .sbc]) (ho : i.operand = some o)
      (he : exec i s = outcome (arith f i.opcode o s))
  | logic (f : Byte → Byte → Byte) (o : Operand) (h : i.mnemonic ∈ [.and, .ora, .eor]) (ho : i.operand = some o)
      (he : exec i s = outcome (logic f i.opcode o s))
  | bit (o : Operand) (h : i.mnemonic = .bit) (ho : i.operand = some o)
      (he : exec i s = outcome (bitTest i.opcode o s))
  | compare (r : Reg) (o : Operand) (h : (i.mnemonic, r) ∈ Mnemonic.compares) (ho : i.operand = some o)
      (he : exec i s = outcome (compareReg r i.opcode o s))
  | modifyMem (o : Operand) (h : i.mnemonic ∈ [.inc, .dec, .asl, .lsr, .rol, .ror]) (ho : i.operand = some o)
      (he : exec i s = outcome (modifyMem (modifier i.mnemonic) i.opcode o s))
  | bump (r : Reg) (f : Byte → Byte)
      (h : (i.mnemonic, r) ∈ [(.inx, .x), (.iny, .y), (.dex, .x), ((.dey : Mnemonic), Reg.y)]) (ho : i.operand = none)
      (he : exec i s = outcome (bumpReg r f i.opcode s))
  | modifyAcc (h : i.mnemonic ∈ [.asl, .lsr, .rol, .ror]) (ho : i.operand = none)
      (he : exec i s = outcome (modifyAcc (modifier i.mnemonic) i.opcode s))
  | jmp (o : Operand) (h : i.mnemonic = .jmp) (ho : i.operand = some o) (he : exec i s = outcome (jump i.opcode o s))
  | jsr (o : Operand) (h : i.mnemonic = .jsr) (ho : i.operand = some o)
      (he : exec i s = outcome (jumpSubroutine i.opcode o s))
  | rts (h : i.mnemonic = .rts) (ho : i.operand = none) (he : exec i s = outcome (returnSubroutine i.opcode s))
  | branch (f : Flag) (on : Bool) (o : Operand) (h : (i.mnemonic, f, on) ∈ Mnemonic.branches) (ho : i.operand = some o)
      (he : exec i s = outcome (branch f on o s))
  | brk (h : i.mnemonic = .brk) (ho : i.operand = none) (he : exec i s = outcome (breakEntry i.opcode s))
  | rti (h : i.mnemonic = .rti) (ho : i.operand = none) (he : exec i s = outcome (returnInterrupt i.opcode s))
  | flag (f : Flag) (v : Bool)
      (h : (i.mnemonic, f, v) ∈ [(.clc, .c, false), (.sec, .c, true), (.cli, .i, false), (.sei, .i, true),
        (.cld, .d, false), (.sed, .d, true), ((.clv : Mnemonic), Flag.v, false)])
      (ho : i.operand = none) (he : exec i s = outcome (assignFlag f v i.opcode s))
  | nop (h : i.mnemonic = .nop) (ho : i.operand = none) (he : exec i s = outcome (noOperation i.opcode s))

theorem exec_shape : ∀ (i : Instr) (s : State), Shape i s
  | .brk, _ => .brk rfl rfl rfl
  | .oraIndX _, _ => .logic oraByte _ (of_decide_eq_true rfl) rfl rfl
  | .oraZp _, _ => .logic oraByte _ (of_decide_eq_true rfl) rfl rfl
  | .aslZp _, _ => .modifyMem _ (of_decide_eq_true rfl) rfl rfl
  | .php, _ => .php rfl rfl rfl
  | .oraImm _, _ => .logic oraByte _ (of_decide_eq_true rfl) rfl rfl
  | .aslAcc, _ => .modifyAcc (of_decide_eq_true rfl) rfl rfl
  | .oraAbs _, _ => .logic oraByte _ (of_decide_eq_true rfl) rfl rfl
  | .aslAbs _, _ => .modifyMem _ (of_decide_eq_true rfl) rfl rfl
  | .bpl _, _ => .branch .n false _ (of_decide_eq_true rfl) rfl rfl
  | .oraIndY _, _ => .logic oraByte _ (of_decide_eq_true rfl) rfl rfl
  | .oraZpX _, _ => .logic oraByte _ (of_decide_eq_true rfl) rfl rfl
  | .aslZpX _, _ => .modifyMem _ (of_decide_eq_true rfl) rfl rfl
  | .clc, _ => .flag .c false (of_decide_eq_true rfl) rfl rfl
  | .oraAbsY _, _ => .logic oraByte _ (of_decide_eq_true rfl) rfl rfl
  | .oraAbsX _, _ => .logic oraByte _ (of_decide_eq_true rfl) rfl rfl
  | .aslAbsX _, _ => .modifyMem _ (of_decide_eq_true rfl) rfl rfl
  | .jsr _, _ => .jsr _ rfl rfl rfl
  | .andIndX _, _ => .logic andByte _ (of_decide_eq_true rfl) rfl rfl
  | .bitZp _, _ => .bit _ rfl rfl rfl
  | .andZp _, _ => .logic andByte _ (of_decide_eq_true rfl) rfl rfl
  | .rolZp _, _ => .modifyMem _ (of_decide_eq_true rfl) rfl rfl
  | .plp, _ => .plp rfl rfl rfl
  | .andImm _, _ => .logic andByte _ (of_decide_eq_true rfl) rfl rfl
  | .rolAcc, _ => .modifyAcc (of_decide_eq_true rfl) rfl rfl
  | .bitAbs _, _ => .bit _ rfl rfl rfl
  | .andAbs _, _ => .logic andByte _ (of_decide_eq_true rfl) rfl rfl
  | .rolAbs _, _ => .modifyMem _ (of_decide_eq_true rfl) rfl rfl
  | .bmi _, _ => .branch .n true _ (of_decide_eq_true rfl) rfl rfl
  | .andIndY _, _ => .logic andByte _ (of_decide_eq_true rfl) rfl rfl
  | .andZpX _, _ => .logic andByte _ (of_decide_eq_true rfl) rfl rfl
  | .rolZpX _, _ => .modifyMem _ (of_decide_eq_true rfl) rfl rfl
  | .sec, _ => .flag .c true (of_decide_eq_true rfl) rfl rfl
  | .andAbsY _, _ => .logic andByte _ (of_decide_eq_true rfl) rfl rfl
  | .andAbsX _, _ => .logic andByte _ (of_decide_eq_true rfl) rfl rfl
  | .rolAbsX _, _ => .modifyMem _ (of_decide_eq_true rfl) rfl rfl
  | .rti, _ => .rti rfl rfl rfl
  | .eorIndX _, _ => .logic eorByte _ (of_decide_eq_true rfl) rfl rfl
  | .eorZp _, _ => .logic eorByte _ (of_decide_eq_true rfl) rfl rfl
  | .lsrZp _, _ => .modifyMem _ (of_decide_eq_true rfl) rfl rfl
  | .pha, _ => .pha rfl rfl rfl
  | .eorImm _, _ => .logic eorByte _ (of_decide_eq_true rfl) rfl rfl
  | .lsrAcc, _ => .modifyAcc (of_decide_eq_true rfl) rfl rfl
  | .jmpAbs _, _ => .jmp _ rfl rfl rfl
  | .eorAbs _, _ => .logic eorByte _ (of_decide_eq_true rfl) rfl rfl
  | .lsrAbs _, _ => .modifyMem _ (of_decide_eq_true rfl) rfl rfl
  | .bvc _, _ => .branch .v false _ (of_decide_eq_true rfl) rfl rfl
  | .eorIndY _, _ => .logic eorByte _ (of_decide_eq_true rfl) rfl rfl
  | .eorZpX _, _ => .logic eorByte _ (of_decide_eq_true rfl) rfl rfl
  | .lsrZpX _, _ => .modifyMem _ (of_decide_eq_true rfl) rfl rfl
  | .cli, _ => .flag .i false (of_decide_eq_true rfl) rfl rfl
  | .eorAbsY _, _ => .logic eorByte _ (of_decide_eq_true rfl) rfl rfl
  | .eorAbsX _, _ => .logic eorByte _ (of_decide_eq_true rfl) rfl rfl
  | .lsrAbsX _, _ => .modifyMem _ (of_decide_eq_true rfl) rfl rfl
  | .rts, _ => .rts rfl rfl rfl
  | .adcIndX _, _ => .arith adcResult _ (of_decide_eq_true rfl) rfl rfl
  | .adcZp _, _ => .arith adcResult _ (of_decide_eq_true rfl) rfl rfl
  | .rorZp _, _ => .modifyMem _ (of_decide_eq_true rfl) rfl rfl
  | .pla, _ => .pla rfl rfl rfl
  | .adcImm _, _ => .arith adcResult _ (of_decide_eq_true rfl) rfl rfl
  | .rorAcc, _ => .modifyAcc (of_decide_eq_true rfl) rfl rfl
  | .jmpInd _, _ => .jmp _ rfl rfl rfl
  | .adcAbs _, _ => .arith adcResult _ (of_decide_eq_true rfl) rfl rfl
  | .rorAbs _, _ => .modifyMem _ (of_decide_eq_true rfl) rfl rfl
  | .bvs _, _ => .branch .v true _ (of_decide_eq_true rfl) rfl rfl
  | .adcIndY _, _ => .arith adcResult _ (of_decide_eq_true rfl) rfl rfl
  | .adcZpX _, _ => .arith adcResult _ (of_decide_eq_true rfl) rfl rfl
  | .rorZpX _, _ => .modifyMem _ (of_decide_eq_true rfl) rfl rfl
  | .sei, _ => .flag .i true (of_decide_eq_true rfl) rfl rfl
  | .adcAbsY _, _ => .arith adcResult _ (of_decide_eq_true rfl) rfl rfl
  | .adcAbsX _, _ => .arith adcResult _ (of_decide_eq_true rfl) rfl rfl
  | .rorAbsX _, _ => .modifyMem _ (of_decide_eq_true rfl) rfl rfl
  | .staIndX _, _ => .store .a _ (of_decide_eq_true rfl) rfl rfl
  | .styZp _, _ => .store .y _ (of_decide_eq_true rfl) rfl rfl
  | .staZp _, _ => .store .a _ (of_decide_eq_true rfl) rfl rfl
  | .stxZp _, _ => .store .x _ (of_decide_eq_true rfl) rfl rfl
  | .dey, _ => .bump .y decByte (of_decide_eq_true rfl) rfl rfl
  | .txa, _ => .transfer .x .a (of_decide_eq_true rfl) rfl rfl
  | .styAbs _, _ => .store .y _ (of_decide_eq_true rfl) rfl rfl
  | .staAbs _, _ => .store .a _ (of_decide_eq_true rfl) rfl rfl
  | .stxAbs _, _ => .store .x _ (of_decide_eq_true rfl) rfl rfl
  | .bcc _, _ => .branch .c false _ (of_decide_eq_true rfl) rfl rfl
  | .staIndY _, _ => .store .a _ (of_decide_eq_true rfl) rfl rfl
  | .styZpX _, _ => .store .y _ (of_decide_eq_true rfl) rfl rfl
  | .staZpX _, _ => .store .a _ (of_decide_eq_true rfl) rfl rfl
  | .stxZpY _, _ => .store .x _ (of_decide_eq_true rfl) rfl rfl
  | .tya, _ => .transfer .y .a (of_decide_eq_true rfl) rfl rfl
  | .staAbsY _, _ => .store .a _ (of_decide_eq_true rfl) rfl rfl
  | .txs, _ => .txs rfl rfl rfl
  | .staAbsX _, _ => .store .a _ (of_decide_eq_true rfl) rfl rfl
  | .ldyImm _, _ => .load .y _ (of_decide_eq_true rfl) rfl rfl
  | .ldaIndX _, _ => .load .a _ (of_decide_eq_true rfl) rfl rfl
  | .ldxImm _, _ => .load .x _ (of_decide_eq_true rfl) rfl rfl
  | .ldyZp _, _ => .load .y _ (of_decide_eq_true rfl) rfl rfl
  | .ldaZp _, _ => .load .a _ (of_decide_eq_true rfl) rfl rfl
  | .ldxZp _, _ => .load .x _ (of_decide_eq_true rfl) rfl rfl
  | .tay, _ => .transfer .a .y (of_decide_eq_true rfl) rfl rfl
  | .ldaImm _, _ => .load .a _ (of_decide_eq_true rfl) rfl rfl
  | .tax, _ => .transfer .a .x (of_decide_eq_true rfl) rfl rfl
  | .ldyAbs _, _ => .load .y _ (of_decide_eq_true rfl) rfl rfl
  | .ldaAbs _, _ => .load .a _ (of_decide_eq_true rfl) rfl rfl
  | .ldxAbs _, _ => .load .x _ (of_decide_eq_true rfl) rfl rfl
  | .bcs _, _ => .branch .c true _ (of_decide_eq_true rfl) rfl rfl
  | .ldaIndY _, _ => .load .a _ (of_decide_eq_true rfl) rfl rfl
  | .ldyZpX _, _ => .load .y _ (of_decide_eq_true rfl) rfl rfl
  | .ldaZpX _, _ => .load .a _ (of_decide_eq_true rfl) rfl rfl
  | .ldxZpY _, _ => .load .x _ (of_decide_eq_true rfl) rfl rfl
  | .clv, _ => .flag .v false (of_decide_eq_true rfl) rfl rfl
  | .ldaAbsY _, _ => .load .a _ (of_decide_eq_true rfl) rfl rfl
  | .tsx, _ => .tsx rfl rfl rfl
  | .ldyAbsX _, _ => .load .y _ (of_decide_eq_true rfl) rfl rfl
  | .ldaAbsX _, _ => .load .a _ (of_decide_eq_true rfl) rfl rfl
  | .ldxAbsY _, _ => .load .x _ (of_decide_eq_true rfl) rfl rfl
  | .cpyImm _, _ => .compare .y _ (of_decide_eq_true rfl) rfl rfl
  | .cmpIndX _, _ => .compare .a _ (of_decide_eq_true rfl) rfl rfl
  | .cpyZp _, _ => .compare .y _ (of_decide_eq_true rfl) rfl rfl
  | .cmpZp _, _ => .compare .a _ (of_decide_eq_true rfl) rfl rfl
  | .decZp _, _ => .modifyMem _ (of_decide_eq_true rfl) rfl rfl
  | .iny, _ => .bump .y incByte (of_decide_eq_true rfl) rfl rfl
  | .cmpImm _, _ => .compare .a _ (of_decide_eq_true rfl) rfl rfl
  | .dex, _ => .bump .x decByte (of_decide_eq_true rfl) rfl rfl
  | .cpyAbs _, _ => .compare .y _ (of_decide_eq_true rfl) rfl rfl
  | .cmpAbs _, _ => .compare .a _ (of_decide_eq_true rfl) rfl rfl
  | .decAbs _, _ => .modifyMem _ (of_decide_eq_true rfl) rfl rfl
  | .bne _, _ => .branch .z false _ (of_decide_eq_true rfl) rfl rfl
  | .cmpIndY _, _ => .compare .a _ (of_decide_eq_true rfl) rfl rfl
  | .cmpZpX _, _ => .compare .a _ (of_decide_eq_true rfl) rfl rfl
  | .decZpX _, _ => .modifyMem _ (of_decide_eq_true rfl) rfl rfl
  | .cld, _ => .flag .d false (of_decide_eq_true rfl) rfl rfl
  | .cmpAbsY _, _ => .compare .a _ (of_decide_eq_true rfl) rfl rfl
  | .cmpAbsX _, _ => .compare .a _ (of_decide_eq_true rfl) rfl rfl
  | .decAbsX _, _ => .modifyMem _ (of_decide_eq_true rfl) rfl rfl
  | .cpxImm _, _ => .compare .x _ (of_decide_eq_true rfl) rfl rfl
  | .sbcIndX _, _ => .arith sbcResult _ (of_decide_eq_true rfl) rfl rfl
  | .cpxZp _, _ => .compare .x _ (of_decide_eq_true rfl) rfl rfl
  | .sbcZp _, _ => .arith sbcResult _ (of_decide_eq_true rfl) rfl rfl
  | .incZp _, _ => .modifyMem _ (of_decide_eq_true rfl) rfl rfl
  | .inx, _ => .bump .x incByte (of_decide_eq_true rfl) rfl rfl
  | .sbcImm _, _ => .arith sbcResult _ (of_decide_eq_true rfl) rfl rfl
  | .nop, _ => .nop rfl rfl rfl
  | .cpxAbs _, _ => .compare .x _ (of_decide_eq_true rfl) rfl rfl
  | .sbcAbs _, _ => .arith sbcResult _ (of_decide_eq_true rfl) rfl rfl
  | .incAbs _, _ => .modifyMem _ (of_decide_eq_true rfl) rfl rfl
  | .beq _, _ => .branch .z true _ (of_decide_eq_true rfl) rfl rfl
  | .sbcIndY _, _ => .arith sbcResult _ (of_decide_eq_true rfl) rfl rfl
  | .sbcZpX _, _ => .arith sbcResult _ (of_decide_eq_true rfl) rfl rfl
  | .incZpX _, _ => .modifyMem _ (of_decide_eq_true rfl) rfl rfl
  | .sed, _ => .flag .d true (of_decide_eq_true rfl) rfl rfl
  | .sbcAbsY _, _ => .arith sbcResult _ (of_decide_eq_true rfl) rfl rfl
  | .sbcAbsX _, _ => .arith sbcResult _ (of_decide_eq_true rfl) rfl rfl
  | .incAbsX _, _ => .modifyMem _ (of_decide_eq_true rfl) rfl rfl

end Sys2Proof.Machine
end

