-- ==== Sys2Proof/Laws/Operands.lean ====
section
/-! SUPPORT. The resolvers: everything `resolve` can do, said once (30_encoding.md R102 to R119). -/

namespace Sys2Proof.Machine

/-- A resolver that completes: the registers kept, `addr_latch` written, no byte of storage changed. -/
structure ResolveEffect (s : State) (v : Resolved) : Prop where
  core : sameRegs s v.state
  latch : v.state.addrLatch = v.value
  map : v.state.bus.map = s.bus.map
  order : v.state.bus.order = s.bus.order
  lastAddress : v.state.bus.lastAddress = s.bus.lastAddress
  lastData : v.state.bus.lastData = s.bus.lastData
  fixed : v.state.bus.fixedPart = s.bus.fixedPart
  storage : v.state.bus.storagePart = s.bus.storagePart
  wf : s.bus.devs.all Device.wf = true → v.state.bus.devs.all Device.wf = true

theorem readReg_ok {r : Reg} {s : State} {v : Byte} (h : readReg r s = .ok v) :
    s.regWritten r = true ∧ v = s.reg r := by
  unfold readReg at h
  split at h <;> simp_all

theorem readReg_of {r : Reg} {s : State} (h : s.regWritten r = true) : readReg r s = .ok (s.reg r) := by
  simp [readReg, h]

/-- A read of an unwritten register faults and does nothing (10_state.md R37). -/
theorem readReg_of_not {r : Reg} {s : State} (h : s.regWritten r = false) :
    readReg r s = .error (.unwrittenRead (.reg r) s) := by
  simp [readReg, h]

/-- A read of an unwritten flag faults and does nothing (10_state.md R37). -/
theorem readFlag_of_not {f : Flag} {s : State} (h : s.flagWritten f = false) :
    readFlag f s = .error (.unwrittenRead (.flag f) s) := by
  simp [readFlag, h]

theorem readFlag_ok {f : Flag} {s : State} {v : Bool} (h : readFlag f s = .ok v) :
    s.flagWritten f = true ∧ v = s.flag f := by
  unfold readFlag at h
  split at h <;> simp_all

theorem readFlag_of {f : Flag} {s : State} (h : s.flagWritten f = true) : readFlag f s = .ok (s.flag f) := by
  simp [readFlag, h]

/-- Binding: a sequence answers exactly when both parts do. -/
theorem Result.bind_ok {α β : Type} {x : Result α} {f : α → Result β} {b : β} :
    (x >>= f) = .ok b ↔ ∃ a, x = .ok a ∧ f a = .ok b := by
  constructor
  · intro h
    cases x with
    | ok a => exact ⟨a, rfl, h⟩
    | error e => cases h
  · rintro ⟨a, rfl, h⟩
    exact h

@[simp] theorem Result.pure_ok {α : Type} (a b : α) : ((pure a : Result α) = .ok b) ↔ a = b := by
  constructor
  · intro h; cases h; rfl
  · rintro rfl; rfl

@[simp] theorem Result.ok_bind {α β : Type} (a : α) (f : α → Result β) : ((.ok a : Result α) >>= f) = f a := rfl

@[simp] theorem Result.error_bind {α β : Type} (e : Fault) (f : α → Result β) :
    ((.error e : Result α) >>= f) = .error e := rfl

theorem resolvedAt_effect (v : BusAddr) (s : State) : ResolveEffect s (resolvedAt v s) :=
  ⟨rfl, rfl, rfl, rfl, rfl, rfl, rfl, rfl, id⟩

theorem resolvedIndexed_effect (base : Word) (i : Byte) (s : State) : ResolveEffect s (resolvedIndexed base i s) :=
  ⟨rfl, rfl, rfl, rfl, rfl, rfl, rfl, rfl, id⟩

/-- A resolver's end after a pointer read. -/
theorem ResolveEffect.afterRead {a : BusAddr} {s : State} {r : Word × State} {v : Resolved}
    (h : memRead16 a s = .ok r) (hv : ResolveEffect r.2 v) : ResolveEffect s v := by
  obtain ⟨ha, hs⟩ := memRead16_accessed h
  exact ⟨ha.core.trans hv.core, hv.latch, hv.map.trans ha.map, hv.order.trans ha.order,
    hv.lastAddress.trans ha.lastAddress, hv.lastData.trans ha.lastData, hv.fixed.trans ha.fixed,
    hv.storage.trans hs, fun h => hv.wf (ha.wf h)⟩

/-- What every resolver that completes does. -/
theorem resolve_effect {o : Operand} {s : State} {v : Resolved} (h : resolve o s = .ok v) : ResolveEffect s v := by
  cases o <;> simp only [resolve, readPtr, Result.bind_ok, Result.pure_ok, Except.ok.injEq] at h
  case imm => subst h; exact resolvedAt_effect _ _
  case zp => subst h; exact resolvedAt_effect _ _
  case zpX => obtain ⟨_, _, rfl⟩ := h; exact resolvedAt_effect _ _
  case zpY => obtain ⟨_, _, rfl⟩ := h; exact resolvedAt_effect _ _
  case abs => subst h; exact resolvedAt_effect _ _
  case absX => obtain ⟨_, _, rfl⟩ := h; exact resolvedIndexed_effect _ _ _
  case absY => obtain ⟨_, _, rfl⟩ := h; exact resolvedIndexed_effect _ _ _
  case indX => obtain ⟨_, _, r, hr, rfl⟩ := h; exact (resolvedAt_effect _ _).afterRead hr
  case indY => obtain ⟨r, hr, _, _, rfl⟩ := h; exact (resolvedIndexed_effect _ _ _).afterRead hr
  case ind => obtain ⟨r, hr, rfl⟩ := h; exact (resolvedAt_effect _ _).afterRead hr
  case rel => subst h; exact resolvedAt_effect _ _

/-- A mode with no pointer read only writes `addr_latch`. -/
theorem resolve_direct {o : Operand} {s : State} {v : Resolved} (h : resolve o s = .ok v)
    (hd : (∀ zz, o ≠ .indX zz ∧ o ≠ .indY zz) ∧ ∀ addr, o ≠ .ind addr) : v.state = s.setAddrLatch v.value := by
  cases o <;> simp only [resolve, Result.bind_ok, Result.pure_ok, Except.ok.injEq] at h
  case indX zz => exact absurd rfl (hd.1 zz).1
  case indY zz => exact absurd rfl (hd.1 zz).2
  case ind addr => exact absurd rfl (hd.2 addr)
  case zpX | zpY | absX | absY => obtain ⟨_, _, rfl⟩ := h; rfl
  all_goals subst h; rfl

/-- What reading an operand does (30_encoding.md R117). -/
structure OperandEffect (s : State) (t : State) : Prop where
  core : sameRegs s t
  latch : t.addrLatch = s.addrLatch
  map : t.bus.map = s.bus.map
  order : t.bus.order = s.bus.order
  lastAddress : t.bus.lastAddress = s.bus.lastAddress
  lastData : t.bus.lastData = s.bus.lastData
  fixed : t.bus.fixedPart = s.bus.fixedPart
  storage : t.bus.storagePart = s.bus.storagePart
  wf : s.bus.devs.all Device.wf = true → t.bus.devs.all Device.wf = true

theorem memRead8_effect (a : BusAddr) (s : State) : OperandEffect s (memRead8 a s).2 := by
  have h := memRead8_accessed a s
  exact ⟨h.core, h.latch, h.map, h.order, h.lastAddress, h.lastData, h.fixed, memRead8_storage a s, h.wf⟩

theorem readOperand_effect (o : Operand) (v : Resolved) : OperandEffect v.state (readOperand o v).2 := by
  cases o
  case imm => exact ⟨rfl, rfl, rfl, rfl, rfl, rfl, rfl, rfl, id⟩
  all_goals exact memRead8_effect v.value v.state

/-- The resolver and the operand read together: what the read-type operations see (30_encoding.md R117). -/
theorem operand_effect {o : Operand} {s : State} {v : Resolved} (h : resolve o s = .ok v) :
    OperandEffect { s with addrLatch := v.value } (readOperand o v).2 := by
  have hv := resolve_effect h
  have ho := readOperand_effect o v
  refine ⟨?_, ho.latch.trans hv.latch, ho.map.trans hv.map, ho.order.trans hv.order,
    ho.lastAddress.trans hv.lastAddress, ho.lastData.trans hv.lastData, ho.fixed.trans hv.fixed,
    ho.storage.trans hv.storage, fun hw => ho.wf (hv.wf hw)⟩
  have h := hv.core.trans ho.core
  unfold sameRegs at h ⊢
  exact h

end Sys2Proof.Machine
end

