-- ==== Sys2Proof/Laws/Frame.lean ====
section
/-! SUPPORT. Frames compose: each named operation keeps a frame that lists what the operation writes. -/

namespace Sys2Proof.Machine

variable {rs : List Reg} {fs : List Flag} {ms : List BusAddr} {s t u : State}

theorem Frame.refl (rs : List Reg) (fs : List Flag) (ms : List BusAddr) (s : State) : Frame rs fs ms s s :=
  ⟨fun _ _ => ⟨rfl, rfl⟩, fun _ _ => ⟨rfl, rfl⟩, fun _ _ => rfl, ⟨rfl, rfl, rfl, rfl, rfl, rfl, rfl, rfl⟩⟩

theorem Frame.trans (h : Frame rs fs ms s t) (h' : Frame rs fs ms t u) : Frame rs fs ms s u where
  regs r hr := ⟨(h'.regs r hr).1.trans (h.regs r hr).1, (h'.regs r hr).2.trans (h.regs r hr).2⟩
  flags f hf := ⟨(h'.flags f hf).1.trans (h.flags f hf).1, (h'.flags f hf).2.trans (h.flags f hf).2⟩
  memory a ha := (h'.memory a ha).trans (h.memory a ha)
  machine := ⟨h'.machine.cfg.trans h.machine.cfg, h'.machine.opcode.trans h.machine.opcode,
    h'.machine.unknownSeen.trans h.machine.unknownSeen, h'.machine.map.trans h.machine.map,
    h'.machine.order.trans h.machine.order, h'.machine.lastAddress.trans h.machine.lastAddress,
    h'.machine.lastData.trans h.machine.lastData, h'.machine.fixed.trans h.machine.fixed⟩

/-- A frame that lists less is one that lists more. -/
theorem Frame.mono {rs' : List Reg} {fs' : List Flag} {ms' : List BusAddr} (h : Frame rs fs ms s t) (hr : rs ⊆ rs')
    (hf : fs ⊆ fs') (hm : ms ⊆ ms') : Frame rs' fs' ms' s t :=
  ⟨fun r hr' => h.regs r fun hx => hr' (hr hx), fun f hf' => h.flags f fun hx => hf' (hf hx),
    fun a ha => h.memory a fun hx => ha (hm hx), h.machine⟩

/-! ## Registers and flags -/

theorem Frame.setReg (h : Frame rs fs ms s t) {r : Reg} (hr : r ∈ rs) (v : Byte) : Frame rs fs ms s (t.setReg r v) :=
  h.trans ⟨fun q hq => by have : q ≠ r := fun e => hq (e ▸ hr); simp [this], fun _ _ => by simp,
    fun _ _ => State.peek_congr (by simp) (by simp) _, by constructor <;> simp⟩

theorem Frame.setFlag (h : Frame rs fs ms s t) {f : Flag} (hf : f ∈ fs) (v : Bool) : Frame rs fs ms s (t.setFlag f v) :=
  h.trans ⟨fun _ _ => by simp, fun q hq => by have : q ≠ f := fun e => hq (e ▸ hf); simp [this],
    fun _ _ => State.peek_congr (by simp) (by simp) _, by constructor <;> simp⟩

theorem Frame.setNZ (h : Frame rs fs ms s t) (hz : .z ∈ fs) (hn : .n ∈ fs) (r : Byte) : Frame rs fs ms s (t.setNZ r) :=
  (h.setFlag hz _).setFlag hn _

theorem Frame.setP (h : Frame rs fs ms s t) (hf : ∀ f, f ∈ fs) (v : Byte) : Frame rs fs ms s (t.setP v) :=
  h.trans ⟨fun _ _ => by simp, fun f hf' => absurd (hf f) hf', fun _ _ => State.peek_congr (by simp) (by simp) _,
    by constructor <;> simp⟩

theorem Frame.setSp (h : Frame rs fs ms s t) (v : Byte) : Frame rs fs ms s (t.setSp v) :=
  h.trans ⟨fun _ _ => ⟨rfl, rfl⟩, fun _ _ => ⟨rfl, rfl⟩, fun _ _ => rfl, ⟨rfl, rfl, rfl, rfl, rfl, rfl, rfl, rfl⟩⟩

theorem Frame.setPc (h : Frame rs fs ms s t) (v : Word) : Frame rs fs ms s (t.setPc v) :=
  h.trans ⟨fun _ _ => ⟨rfl, rfl⟩, fun _ _ => ⟨rfl, rfl⟩, fun _ _ => rfl, ⟨rfl, rfl, rfl, rfl, rfl, rfl, rfl, rfl⟩⟩

theorem Frame.useDraws (h : Frame rs fs ms s t) (n : Nat) : Frame rs fs ms s (t.useDraws n) :=
  h.trans ⟨fun _ _ => ⟨rfl, rfl⟩, fun _ _ => ⟨rfl, rfl⟩, fun _ _ => rfl, ⟨rfl, rfl, rfl, rfl, rfl, rfl, rfl, rfl⟩⟩

theorem Frame.retire (h : Frame rs fs ms s t) (c : Nat) : Frame rs fs ms s (t.retire c) :=
  h.trans ⟨fun _ _ => ⟨rfl, rfl⟩, fun _ _ => ⟨rfl, rfl⟩, fun _ _ => rfl, ⟨rfl, rfl, rfl, rfl, rfl, rfl, rfl, rfl⟩⟩

/-! ## Bus accesses -/

theorem Frame.of_storage (h : sameRegs s t) (hm : t.bus.map = s.bus.map) (ho : t.bus.order = s.bus.order)
    (ha : t.bus.lastAddress = s.bus.lastAddress) (hd : t.bus.lastData = s.bus.lastData)
    (hf : t.bus.fixedPart = s.bus.fixedPart) (hs : t.bus.storagePart = s.bus.storagePart) (rs : List Reg)
    (fs : List Flag) (ms : List BusAddr) : Frame rs fs ms s t :=
  ⟨fun r _ => ⟨h.reg r, h.regWritten r⟩, fun f _ => ⟨h.flag f, h.flagWritten f⟩, fun a _ => State.peek_congr hm hs a,
    ⟨h.cfg, h.opcode, h.unknownSeen, hm, ho, ha, hd, hf⟩⟩

theorem Frame.memRead8 (h : Frame rs fs ms s t) (a : BusAddr) : Frame rs fs ms s (memRead8 a t).2 :=
  have e := memRead8_effect a t
  h.trans (Frame.of_storage e.core e.map e.order e.lastAddress e.lastData e.fixed e.storage rs fs ms)

theorem Frame.memRead16 (h : Frame rs fs ms s t) {a : BusAddr} {r : Word × State} (hr : memRead16 a t = .ok r) :
    Frame rs fs ms s r.2 :=
  have e := memRead16_accessed hr
  h.trans (Frame.of_storage e.1.core e.1.map e.1.order e.1.lastAddress e.1.lastData e.1.fixed e.2 rs fs ms)

theorem Frame.memWrite8 (h : Frame rs fs ms s t) {a : BusAddr} (ha : a ∈ ms) (v : Byte) :
    Frame rs fs ms s (memWrite8 a v t) :=
  have e := memWrite8_accessed a v t
  h.trans ⟨fun r _ => ⟨e.core.reg r, e.core.regWritten r⟩, fun f _ => ⟨e.core.flag f, e.core.flagWritten f⟩,
    fun _ ha' => memWrite8_peek_other v t fun hx => ha' (hx ▸ ha),
    ⟨e.core.cfg, e.core.opcode, e.core.unknownSeen, e.map, e.order, e.lastAddress, e.lastData, e.fixed⟩⟩

theorem Frame.memWrite16 (h : Frame rs fs ms s t) {a : BusAddr} (ha : a ∈ ms) (ha' : a + 1 ∈ ms) {w : Word}
    (hw : memWrite16 a w t = .ok u) : Frame rs fs ms s u :=
  have e := memWrite16_accessed hw
  h.trans ⟨fun r _ => ⟨e.core.reg r, e.core.regWritten r⟩, fun f _ => ⟨e.core.flag f, e.core.flagWritten f⟩,
    fun b hb => memWrite16_peek_other hw (fun hx => hb (BitVec.eq_of_toNat_eq hx ▸ ha)) fun hx => hb (by
      have : b = a + 1 := by bv_omega
      exact this ▸ ha'),
    ⟨e.core.cfg, e.core.opcode, e.core.unknownSeen, e.map, e.order, e.lastAddress, e.lastData, e.fixed⟩⟩

/-- A resolver that completes keeps every register, flag and byte. -/
theorem Frame.resolve (h : Frame rs fs ms s t) {o : Operand} {v : Resolved} (hv : resolve o t = .ok v) :
    Frame rs fs ms s v.state :=
  have e := resolve_effect hv
  h.trans (Frame.of_storage e.core e.map e.order e.lastAddress e.lastData e.fixed e.storage rs fs ms)

/-- So does reading the operand after it. -/
theorem Frame.operand (h : Frame rs fs ms s t) {o : Operand} {v : Resolved} (hv : Sys2Proof.Machine.resolve o t = .ok v) :
    Frame rs fs ms s (readOperand o v).2 :=
  have e := readOperand_effect o v
  (h.resolve hv).trans (Frame.of_storage e.core e.map e.order e.lastAddress e.lastData e.fixed e.storage rs fs ms)

end Sys2Proof.Machine
end

