-- ==== Sys2Proof/Laws/Complete.lean ====
section
/-! SUPPORT. When the parts of an instruction complete, and each shared operation as one equation on what its parts
gave. -/

namespace Sys2Proof.Machine

variable {s : State} {o : Operand} {v : Resolved}

theorem memRead16_of_fits {a : BusAddr} (h : s.bus.shortFits a = true) : ∃ r, memRead16 a s = .ok r :=
  (memRead16_ok_iff a s).2 h

theorem memWrite16_of_fits {a : BusAddr} (w : Word) (h : s.bus.shortFits a = true) : ∃ t, memWrite16 a w s = .ok t :=
  (memWrite16_ok_iff a w s).2 h

/-- A resolver whose index is written and whose pointer fits completes. -/
theorem resolve_of_ready (h : o.ready s = true) : ∃ v, resolve o s = .ok v := by
  cases o <;> simp only [Operand.ready, Bool.and_eq_true] at h
  case imm => exact ⟨_, rfl⟩
  case zp => exact ⟨_, rfl⟩
  case zpX => exact ⟨_, by simp only [resolve, readReg_of h]; rfl⟩
  case zpY => exact ⟨_, by simp only [resolve, readReg_of h]; rfl⟩
  case abs => exact ⟨_, rfl⟩
  case absX => exact ⟨_, by simp only [resolve, readReg_of h]; rfl⟩
  case absY => exact ⟨_, by simp only [resolve, readReg_of h]; rfl⟩
  case indX =>
    obtain ⟨r, hr⟩ := memRead16_of_fits h.2
    exact ⟨_, by simp only [resolve, readReg_of h.1, Result.ok_bind, readPtr, State.reg, hr]; rfl⟩
  case indY =>
    obtain ⟨r, hr⟩ := memRead16_of_fits h.2
    have hy : r.2.regWritten .y = true := by rw [(memRead16_accessed hr).1.core.regWritten]; exact h.1
    exact ⟨_, by simp only [resolve, readPtr, hr, Result.ok_bind, readReg_of hy]; rfl⟩
  case ind =>
    obtain ⟨r, hr⟩ := memRead16_of_fits h
    exact ⟨_, by simp only [resolve, readPtr, hr]; rfl⟩
  case rel => exact ⟨_, rfl⟩

/-- A resolver that completes keeps what the completion of another part needs. -/
theorem operand_regWritten (hv : resolve o s = .ok v) (r : Reg) : (readOperand o v).2.regWritten r = s.regWritten r :=
  (operand_effect hv).core.regWritten r

theorem operand_reg (hv : resolve o s = .ok v) (r : Reg) : (readOperand o v).2.reg r = s.reg r :=
  (operand_effect hv).core.reg r

theorem operand_flagWritten (hv : resolve o s = .ok v) (f : Flag) :
    (readOperand o v).2.flagWritten f = s.flagWritten f := (operand_effect hv).core.flagWritten f

theorem operand_flag (hv : resolve o s = .ok v) (f : Flag) : (readOperand o v).2.flag f = s.flag f :=
  (operand_effect hv).core.flag f

theorem operand_sp (hv : resolve o s = .ok v) : (readOperand o v).2.sp = s.sp := (operand_effect hv).core.sp

theorem operand_pc (hv : resolve o s = .ok v) : (readOperand o v).2.pc = s.pc := (operand_effect hv).core.pc

theorem operand_cfg (hv : resolve o s = .ok v) : (readOperand o v).2.cfg = s.cfg := (operand_effect hv).core.cfg

theorem operand_addrLatch (hv : resolve o s = .ok v) : (readOperand o v).2.addrLatch = v.value :=
  (operand_effect hv).latch

/-! ## Each shared operation on what its parts gave -/

theorem load_eq (r : Reg) (opc : Byte) (hv : resolve o s = .ok v) :
    load r opc o s = .ok ((((readOperand o v).2.setReg r (readOperand o v).1).setNZ (readOperand o v).1).retire
      (readCost s.cfg opc v.crossed)) := by
  simp only [load, hv]; rfl

theorem store_eq {r : Reg} (opc : Byte) (hv : resolve o s = .ok v) (hr : s.regWritten r = true) :
    store r opc o s = .ok ((if s.cfg.storeSetsNZ then (memWrite8 v.value (s.reg r) v.state).setNZ (s.reg r)
      else memWrite8 v.value (s.reg r) v.state).retire (baseCost s.cfg opc)) := by
  have e := resolve_effect hv
  have h : readReg r v.state = .ok (s.reg r) := by
    rw [readReg_of (by rw [e.core.regWritten]; exact hr), e.core.reg]
  simp only [store, hv, Result.ok_bind, h]; rfl

theorem logic_eq (f : Byte → Byte → Byte) (opc : Byte) (hv : resolve o s = .ok v) (ha : s.regWritten .a = true) :
    logic f opc o s = .ok ((((readOperand o v).2.setReg .a (f s.a (readOperand o v).1)).setNZ
      (f s.a (readOperand o v).1)).retire (readCost s.cfg opc v.crossed)) := by
  have h : readReg .a (readOperand o v).2 = .ok s.a := by
    rw [readReg_of (by rw [operand_regWritten hv]; exact ha), operand_reg hv]; rfl
  simp only [logic, hv, Result.ok_bind, h]; rfl

theorem bitTest_eq (opc : Byte) (hv : resolve o s = .ok v) (ha : s.regWritten .a = true) :
    bitTest opc o s = .ok (((readOperand o v).2.setBitTest s.a (readOperand o v).1).retire (baseCost s.cfg opc)) := by
  have h : readReg .a (readOperand o v).2 = .ok s.a := by
    rw [readReg_of (by rw [operand_regWritten hv]; exact ha), operand_reg hv]; rfl
  simp only [bitTest, hv, Result.ok_bind, h]; rfl

theorem compareReg_eq {r : Reg} (opc : Byte) (hv : resolve o s = .ok v) (hr : s.regWritten r = true) :
    compareReg r opc o s = .ok (((readOperand o v).2.setCompare (s.reg r) (readOperand o v).1).retire
      (readCost s.cfg opc v.crossed)) := by
  have h : readReg r (readOperand o v).2 = .ok (s.reg r) := by
    rw [readReg_of (by rw [operand_regWritten hv]; exact hr), operand_reg hv]
  simp only [compareReg, hv, Result.ok_bind, h]; rfl

theorem arith_binary_eq (f : Byte → Byte → Bool → ArithOut) (opc : Byte) (hv : resolve o s = .ok v)
    (hd : s.flagWritten .d = true) (hn : ¬ s.decimalDraws) (ha : s.regWritten .a = true)
    (hc : s.flagWritten .c = true) :
    arith f opc o s = .ok (((readOperand o v).2.setArith (f s.a (readOperand o v).1 (s.flag .c))).retire
      (readCost s.cfg opc v.crossed)) := by
  have h1 : readFlag .d (readOperand o v).2 = .ok (s.flag .d) := by
    rw [readFlag_of (by rw [operand_flagWritten hv]; exact hd), operand_flag hv]
  have h2 : readReg .a (readOperand o v).2 = .ok s.a := by
    rw [readReg_of (by rw [operand_regWritten hv]; exact ha), operand_reg hv]; rfl
  have h3 : readFlag .c (readOperand o v).2 = .ok (s.flag .c) := by
    rw [readFlag_of (by rw [operand_flagWritten hv]; exact hc), operand_flag hv]
  unfold State.decimalDraws at hn
  simp only [arith, hv, Result.ok_bind, h1, hn, if_false, h2, h3]; rfl

theorem arith_decimal_eq (f : Byte → Byte → Bool → ArithOut) (opc : Byte) (hv : resolve o s = .ok v)
    (hd : s.flagWritten .d = true) (hn : s.decimalDraws) :
    arith f opc o s = .ok ((decimalDraw (readOperand o v).2).retire (readCost s.cfg opc v.crossed)) := by
  have h1 : readFlag .d (readOperand o v).2 = .ok (s.flag .d) := by
    rw [readFlag_of (by rw [operand_flagWritten hv]; exact hd), operand_flag hv]
  unfold State.decimalDraws at hn
  simp only [arith, hv, Result.ok_bind, h1, if_pos hn]; rfl

theorem modifyMem_eq {f : Byte → State → Result (Byte × State)} (opc : Byte) (hv : resolve o s = .ok v)
    {r : Byte × State} (hr : f (memRead8 v.value v.state).1 (memRead8 v.value v.state).2 = .ok r) :
    modifyMem f opc o s = .ok (((memWrite8 v.value r.1 r.2).setNZ r.1).retire (baseCost s.cfg opc)) := by
  simp only [modifyMem, hv, Result.ok_bind, hr]; rfl

theorem modifyAcc_eq {f : Byte → State → Result (Byte × State)} (opc : Byte) (ha : s.regWritten .a = true)
    {r : Byte × State} (hr : f s.a s = .ok r) :
    modifyAcc f opc s = .ok (((r.2.setReg .a r.1).setNZ r.1).retire (baseCost s.cfg opc)) := by
  have h : readReg .a s = .ok s.a := readReg_of ha
  simp only [modifyAcc, h, Result.ok_bind, hr]; rfl

/-- PHP and BRK read P when every bit they push from it is written. -/
theorem pushedStatus_of (h : s.statusReadable) : pushedStatus s = .ok (s.p ||| s.cfg.phpMask) := by
  have : (Flag.all.find? fun f => !s.cfg.phpMask.getLsbD f.bit && !s.flagWritten f) = none := by
    rw [List.find?_eq_none]
    intro f _
    cases hm : s.cfg.phpMask.getLsbD f.bit
    · simp [h f hm]
    · simp
  simp [pushedStatus, this]

/-! ## Storing -/

theorem storedAs_congr {s t : State} (hm : t.bus.map = s.bus.map) (hs : t.bus.storagePart = s.bus.storagePart)
    (a : BusAddr) (b : Byte) : storedAs t a b = storedAs s a b := by
  simp only [storedAs, State.isRam_congr hm hs, State.peek_congr hm hs]

/-- A byte written after a resolver and a read of the same address. -/
theorem stored_after {s t : State} {a : BusAddr} (hm : t.bus.map = s.bus.map)
    (hs : t.bus.storagePart = s.bus.storagePart) (hw : t.bus.devs.all Device.wf = true) (b : Byte) :
    (memWrite8 a b t).peek a = storedAs s a b := by
  rw [memWrite8_peek_same b hw, storedAs_congr hm hs]

/-! ## The two cost forms -/

theorem readCost_eq (cfg : Config) (opc : Byte) (c : Bool) :
    readCost cfg opc c = baseCost cfg opc + if c then 1 else 0 := rfl

theorem baseCost_of_table {cfg : Config} {opc : Byte} {r : Row} (h : cfg.cycleOverrides = []) (hr : rowOf? opc = some r) :
    baseCost cfg opc = r.cost := by
  simp [baseCost, h, hr]

end Sys2Proof.Machine
end

