-- ==== Sys2Proof/Laws/PerInstr.lean ====
section
/-! SUPPORT. Per-instruction facts about encoding: the opcode's row in the table carries the instruction's mnemonic,
and its bytes column is the length of the encoding (30_encoding.md R121, R124). -/

namespace Sys2Proof.Laws.TableRow

/-- The instruction's opcode has a row, with its mnemonic, its opcode and the length of its encoding. -/
def Statement (i : Instr) : Prop :=
  ∃ r, rowOf? i.opcode = some r ∧ r.opcode = i.opcode ∧ r.mnemonic = i.mnemonic ∧ r.bytes = (encode i).length

theorem ldaIndX (zz : Byte) : Statement (.ldaIndX zz) :=
  ⟨_, (rfl : rowOf? 0xA1#8 = _), rfl, rfl, rfl⟩
theorem ldaZp (zz : Byte) : Statement (.ldaZp zz) :=
  ⟨_, (rfl : rowOf? 0xA5#8 = _), rfl, rfl, rfl⟩
theorem ldaImm (n : Byte) : Statement (.ldaImm n) :=
  ⟨_, (rfl : rowOf? 0xA9#8 = _), rfl, rfl, rfl⟩
theorem ldaAbs (addr : Word) : Statement (.ldaAbs addr) :=
  ⟨_, (rfl : rowOf? 0xAD#8 = _), rfl, rfl, rfl⟩
theorem ldaIndY (zz : Byte) : Statement (.ldaIndY zz) :=
  ⟨_, (rfl : rowOf? 0xB1#8 = _), rfl, rfl, rfl⟩
theorem ldaZpX (zz : Byte) : Statement (.ldaZpX zz) :=
  ⟨_, (rfl : rowOf? 0xB5#8 = _), rfl, rfl, rfl⟩
theorem ldaAbsY (addr : Word) : Statement (.ldaAbsY addr) :=
  ⟨_, (rfl : rowOf? 0xB9#8 = _), rfl, rfl, rfl⟩
theorem ldaAbsX (addr : Word) : Statement (.ldaAbsX addr) :=
  ⟨_, (rfl : rowOf? 0xBD#8 = _), rfl, rfl, rfl⟩
theorem ldxImm (n : Byte) : Statement (.ldxImm n) :=
  ⟨_, (rfl : rowOf? 0xA2#8 = _), rfl, rfl, rfl⟩
theorem ldxZp (zz : Byte) : Statement (.ldxZp zz) :=
  ⟨_, (rfl : rowOf? 0xA6#8 = _), rfl, rfl, rfl⟩
theorem ldxAbs (addr : Word) : Statement (.ldxAbs addr) :=
  ⟨_, (rfl : rowOf? 0xAE#8 = _), rfl, rfl, rfl⟩
theorem ldxZpY (zz : Byte) : Statement (.ldxZpY zz) :=
  ⟨_, (rfl : rowOf? 0xB6#8 = _), rfl, rfl, rfl⟩
theorem ldxAbsY (addr : Word) : Statement (.ldxAbsY addr) :=
  ⟨_, (rfl : rowOf? 0xBE#8 = _), rfl, rfl, rfl⟩
theorem ldyImm (n : Byte) : Statement (.ldyImm n) :=
  ⟨_, (rfl : rowOf? 0xA0#8 = _), rfl, rfl, rfl⟩
theorem ldyZp (zz : Byte) : Statement (.ldyZp zz) :=
  ⟨_, (rfl : rowOf? 0xA4#8 = _), rfl, rfl, rfl⟩
theorem ldyAbs (addr : Word) : Statement (.ldyAbs addr) :=
  ⟨_, (rfl : rowOf? 0xAC#8 = _), rfl, rfl, rfl⟩
theorem ldyZpX (zz : Byte) : Statement (.ldyZpX zz) :=
  ⟨_, (rfl : rowOf? 0xB4#8 = _), rfl, rfl, rfl⟩
theorem ldyAbsX (addr : Word) : Statement (.ldyAbsX addr) :=
  ⟨_, (rfl : rowOf? 0xBC#8 = _), rfl, rfl, rfl⟩
theorem staIndX (zz : Byte) : Statement (.staIndX zz) :=
  ⟨_, (rfl : rowOf? 0x81#8 = _), rfl, rfl, rfl⟩
theorem staZp (zz : Byte) : Statement (.staZp zz) :=
  ⟨_, (rfl : rowOf? 0x85#8 = _), rfl, rfl, rfl⟩
theorem staAbs (addr : Word) : Statement (.staAbs addr) :=
  ⟨_, (rfl : rowOf? 0x8D#8 = _), rfl, rfl, rfl⟩
theorem staIndY (zz : Byte) : Statement (.staIndY zz) :=
  ⟨_, (rfl : rowOf? 0x91#8 = _), rfl, rfl, rfl⟩
theorem staZpX (zz : Byte) : Statement (.staZpX zz) :=
  ⟨_, (rfl : rowOf? 0x95#8 = _), rfl, rfl, rfl⟩
theorem staAbsY (addr : Word) : Statement (.staAbsY addr) :=
  ⟨_, (rfl : rowOf? 0x99#8 = _), rfl, rfl, rfl⟩
theorem staAbsX (addr : Word) : Statement (.staAbsX addr) :=
  ⟨_, (rfl : rowOf? 0x9D#8 = _), rfl, rfl, rfl⟩
theorem stxZp (zz : Byte) : Statement (.stxZp zz) :=
  ⟨_, (rfl : rowOf? 0x86#8 = _), rfl, rfl, rfl⟩
theorem stxAbs (addr : Word) : Statement (.stxAbs addr) :=
  ⟨_, (rfl : rowOf? 0x8E#8 = _), rfl, rfl, rfl⟩
theorem stxZpY (zz : Byte) : Statement (.stxZpY zz) :=
  ⟨_, (rfl : rowOf? 0x96#8 = _), rfl, rfl, rfl⟩
theorem styZp (zz : Byte) : Statement (.styZp zz) :=
  ⟨_, (rfl : rowOf? 0x84#8 = _), rfl, rfl, rfl⟩
theorem styAbs (addr : Word) : Statement (.styAbs addr) :=
  ⟨_, (rfl : rowOf? 0x8C#8 = _), rfl, rfl, rfl⟩
theorem styZpX (zz : Byte) : Statement (.styZpX zz) :=
  ⟨_, (rfl : rowOf? 0x94#8 = _), rfl, rfl, rfl⟩
theorem tax : Statement (.tax) :=
  ⟨_, (rfl : rowOf? 0xAA#8 = _), rfl, rfl, rfl⟩
theorem tay : Statement (.tay) :=
  ⟨_, (rfl : rowOf? 0xA8#8 = _), rfl, rfl, rfl⟩
theorem txa : Statement (.txa) :=
  ⟨_, (rfl : rowOf? 0x8A#8 = _), rfl, rfl, rfl⟩
theorem tya : Statement (.tya) :=
  ⟨_, (rfl : rowOf? 0x98#8 = _), rfl, rfl, rfl⟩
theorem tsx : Statement (.tsx) :=
  ⟨_, (rfl : rowOf? 0xBA#8 = _), rfl, rfl, rfl⟩
theorem txs : Statement (.txs) :=
  ⟨_, (rfl : rowOf? 0x9A#8 = _), rfl, rfl, rfl⟩
theorem pha : Statement (.pha) :=
  ⟨_, (rfl : rowOf? 0x48#8 = _), rfl, rfl, rfl⟩
theorem php : Statement (.php) :=
  ⟨_, (rfl : rowOf? 0x08#8 = _), rfl, rfl, rfl⟩
theorem pla : Statement (.pla) :=
  ⟨_, (rfl : rowOf? 0x68#8 = _), rfl, rfl, rfl⟩
theorem plp : Statement (.plp) :=
  ⟨_, (rfl : rowOf? 0x28#8 = _), rfl, rfl, rfl⟩
theorem adcIndX (zz : Byte) : Statement (.adcIndX zz) :=
  ⟨_, (rfl : rowOf? 0x61#8 = _), rfl, rfl, rfl⟩
theorem adcZp (zz : Byte) : Statement (.adcZp zz) :=
  ⟨_, (rfl : rowOf? 0x65#8 = _), rfl, rfl, rfl⟩
theorem adcImm (n : Byte) : Statement (.adcImm n) :=
  ⟨_, (rfl : rowOf? 0x69#8 = _), rfl, rfl, rfl⟩
theorem adcAbs (addr : Word) : Statement (.adcAbs addr) :=
  ⟨_, (rfl : rowOf? 0x6D#8 = _), rfl, rfl, rfl⟩
theorem adcIndY (zz : Byte) : Statement (.adcIndY zz) :=
  ⟨_, (rfl : rowOf? 0x71#8 = _), rfl, rfl, rfl⟩
theorem adcZpX (zz : Byte) : Statement (.adcZpX zz) :=
  ⟨_, (rfl : rowOf? 0x75#8 = _), rfl, rfl, rfl⟩
theorem adcAbsY (addr : Word) : Statement (.adcAbsY addr) :=
  ⟨_, (rfl : rowOf? 0x79#8 = _), rfl, rfl, rfl⟩
theorem adcAbsX (addr : Word) : Statement (.adcAbsX addr) :=
  ⟨_, (rfl : rowOf? 0x7D#8 = _), rfl, rfl, rfl⟩
theorem sbcIndX (zz : Byte) : Statement (.sbcIndX zz) :=
  ⟨_, (rfl : rowOf? 0xE1#8 = _), rfl, rfl, rfl⟩
theorem sbcZp (zz : Byte) : Statement (.sbcZp zz) :=
  ⟨_, (rfl : rowOf? 0xE5#8 = _), rfl, rfl, rfl⟩
theorem sbcImm (n : Byte) : Statement (.sbcImm n) :=
  ⟨_, (rfl : rowOf? 0xE9#8 = _), rfl, rfl, rfl⟩
theorem sbcAbs (addr : Word) : Statement (.sbcAbs addr) :=
  ⟨_, (rfl : rowOf? 0xED#8 = _), rfl, rfl, rfl⟩
theorem sbcIndY (zz : Byte) : Statement (.sbcIndY zz) :=
  ⟨_, (rfl : rowOf? 0xF1#8 = _), rfl, rfl, rfl⟩
theorem sbcZpX (zz : Byte) : Statement (.sbcZpX zz) :=
  ⟨_, (rfl : rowOf? 0xF5#8 = _), rfl, rfl, rfl⟩
theorem sbcAbsY (addr : Word) : Statement (.sbcAbsY addr) :=
  ⟨_, (rfl : rowOf? 0xF9#8 = _), rfl, rfl, rfl⟩
theorem sbcAbsX (addr : Word) : Statement (.sbcAbsX addr) :=
  ⟨_, (rfl : rowOf? 0xFD#8 = _), rfl, rfl, rfl⟩
theorem andIndX (zz : Byte) : Statement (.andIndX zz) :=
  ⟨_, (rfl : rowOf? 0x21#8 = _), rfl, rfl, rfl⟩
theorem andZp (zz : Byte) : Statement (.andZp zz) :=
  ⟨_, (rfl : rowOf? 0x25#8 = _), rfl, rfl, rfl⟩
theorem andImm (n : Byte) : Statement (.andImm n) :=
  ⟨_, (rfl : rowOf? 0x29#8 = _), rfl, rfl, rfl⟩
theorem andAbs (addr : Word) : Statement (.andAbs addr) :=
  ⟨_, (rfl : rowOf? 0x2D#8 = _), rfl, rfl, rfl⟩
theorem andIndY (zz : Byte) : Statement (.andIndY zz) :=
  ⟨_, (rfl : rowOf? 0x31#8 = _), rfl, rfl, rfl⟩
theorem andZpX (zz : Byte) : Statement (.andZpX zz) :=
  ⟨_, (rfl : rowOf? 0x35#8 = _), rfl, rfl, rfl⟩
theorem andAbsY (addr : Word) : Statement (.andAbsY addr) :=
  ⟨_, (rfl : rowOf? 0x39#8 = _), rfl, rfl, rfl⟩
theorem andAbsX (addr : Word) : Statement (.andAbsX addr) :=
  ⟨_, (rfl : rowOf? 0x3D#8 = _), rfl, rfl, rfl⟩
theorem oraIndX (zz : Byte) : Statement (.oraIndX zz) :=
  ⟨_, (rfl : rowOf? 0x01#8 = _), rfl, rfl, rfl⟩
theorem oraZp (zz : Byte) : Statement (.oraZp zz) :=
  ⟨_, (rfl : rowOf? 0x05#8 = _), rfl, rfl, rfl⟩
theorem oraImm (n : Byte) : Statement (.oraImm n) :=
  ⟨_, (rfl : rowOf? 0x09#8 = _), rfl, rfl, rfl⟩
theorem oraAbs (addr : Word) : Statement (.oraAbs addr) :=
  ⟨_, (rfl : rowOf? 0x0D#8 = _), rfl, rfl, rfl⟩
theorem oraIndY (zz : Byte) : Statement (.oraIndY zz) :=
  ⟨_, (rfl : rowOf? 0x11#8 = _), rfl, rfl, rfl⟩
theorem oraZpX (zz : Byte) : Statement (.oraZpX zz) :=
  ⟨_, (rfl : rowOf? 0x15#8 = _), rfl, rfl, rfl⟩
theorem oraAbsY (addr : Word) : Statement (.oraAbsY addr) :=
  ⟨_, (rfl : rowOf? 0x19#8 = _), rfl, rfl, rfl⟩
theorem oraAbsX (addr : Word) : Statement (.oraAbsX addr) :=
  ⟨_, (rfl : rowOf? 0x1D#8 = _), rfl, rfl, rfl⟩
theorem eorIndX (zz : Byte) : Statement (.eorIndX zz) :=
  ⟨_, (rfl : rowOf? 0x41#8 = _), rfl, rfl, rfl⟩
theorem eorZp (zz : Byte) : Statement (.eorZp zz) :=
  ⟨_, (rfl : rowOf? 0x45#8 = _), rfl, rfl, rfl⟩
theorem eorImm (n : Byte) : Statement (.eorImm n) :=
  ⟨_, (rfl : rowOf? 0x49#8 = _), rfl, rfl, rfl⟩
theorem eorAbs (addr : Word) : Statement (.eorAbs addr) :=
  ⟨_, (rfl : rowOf? 0x4D#8 = _), rfl, rfl, rfl⟩
theorem eorIndY (zz : Byte) : Statement (.eorIndY zz) :=
  ⟨_, (rfl : rowOf? 0x51#8 = _), rfl, rfl, rfl⟩
theorem eorZpX (zz : Byte) : Statement (.eorZpX zz) :=
  ⟨_, (rfl : rowOf? 0x55#8 = _), rfl, rfl, rfl⟩
theorem eorAbsY (addr : Word) : Statement (.eorAbsY addr) :=
  ⟨_, (rfl : rowOf? 0x59#8 = _), rfl, rfl, rfl⟩
theorem eorAbsX (addr : Word) : Statement (.eorAbsX addr) :=
  ⟨_, (rfl : rowOf? 0x5D#8 = _), rfl, rfl, rfl⟩
theorem bitZp (zz : Byte) : Statement (.bitZp zz) :=
  ⟨_, (rfl : rowOf? 0x24#8 = _), rfl, rfl, rfl⟩
theorem bitAbs (addr : Word) : Statement (.bitAbs addr) :=
  ⟨_, (rfl : rowOf? 0x2C#8 = _), rfl, rfl, rfl⟩
theorem cmpIndX (zz : Byte) : Statement (.cmpIndX zz) :=
  ⟨_, (rfl : rowOf? 0xC1#8 = _), rfl, rfl, rfl⟩
theorem cmpZp (zz : Byte) : Statement (.cmpZp zz) :=
  ⟨_, (rfl : rowOf? 0xC5#8 = _), rfl, rfl, rfl⟩
theorem cmpImm (n : Byte) : Statement (.cmpImm n) :=
  ⟨_, (rfl : rowOf? 0xC9#8 = _), rfl, rfl, rfl⟩
theorem cmpAbs (addr : Word) : Statement (.cmpAbs addr) :=
  ⟨_, (rfl : rowOf? 0xCD#8 = _), rfl, rfl, rfl⟩
theorem cmpIndY (zz : Byte) : Statement (.cmpIndY zz) :=
  ⟨_, (rfl : rowOf? 0xD1#8 = _), rfl, rfl, rfl⟩
theorem cmpZpX (zz : Byte) : Statement (.cmpZpX zz) :=
  ⟨_, (rfl : rowOf? 0xD5#8 = _), rfl, rfl, rfl⟩
theorem cmpAbsY (addr : Word) : Statement (.cmpAbsY addr) :=
  ⟨_, (rfl : rowOf? 0xD9#8 = _), rfl, rfl, rfl⟩
theorem cmpAbsX (addr : Word) : Statement (.cmpAbsX addr) :=
  ⟨_, (rfl : rowOf? 0xDD#8 = _), rfl, rfl, rfl⟩
theorem cpxImm (n : Byte) : Statement (.cpxImm n) :=
  ⟨_, (rfl : rowOf? 0xE0#8 = _), rfl, rfl, rfl⟩
theorem cpxZp (zz : Byte) : Statement (.cpxZp zz) :=
  ⟨_, (rfl : rowOf? 0xE4#8 = _), rfl, rfl, rfl⟩
theorem cpxAbs (addr : Word) : Statement (.cpxAbs addr) :=
  ⟨_, (rfl : rowOf? 0xEC#8 = _), rfl, rfl, rfl⟩
theorem cpyImm (n : Byte) : Statement (.cpyImm n) :=
  ⟨_, (rfl : rowOf? 0xC0#8 = _), rfl, rfl, rfl⟩
theorem cpyZp (zz : Byte) : Statement (.cpyZp zz) :=
  ⟨_, (rfl : rowOf? 0xC4#8 = _), rfl, rfl, rfl⟩
theorem cpyAbs (addr : Word) : Statement (.cpyAbs addr) :=
  ⟨_, (rfl : rowOf? 0xCC#8 = _), rfl, rfl, rfl⟩
theorem incZp (zz : Byte) : Statement (.incZp zz) :=
  ⟨_, (rfl : rowOf? 0xE6#8 = _), rfl, rfl, rfl⟩
theorem incAbs (addr : Word) : Statement (.incAbs addr) :=
  ⟨_, (rfl : rowOf? 0xEE#8 = _), rfl, rfl, rfl⟩
theorem incZpX (zz : Byte) : Statement (.incZpX zz) :=
  ⟨_, (rfl : rowOf? 0xF6#8 = _), rfl, rfl, rfl⟩
theorem incAbsX (addr : Word) : Statement (.incAbsX addr) :=
  ⟨_, (rfl : rowOf? 0xFE#8 = _), rfl, rfl, rfl⟩
theorem decZp (zz : Byte) : Statement (.decZp zz) :=
  ⟨_, (rfl : rowOf? 0xC6#8 = _), rfl, rfl, rfl⟩
theorem decAbs (addr : Word) : Statement (.decAbs addr) :=
  ⟨_, (rfl : rowOf? 0xCE#8 = _), rfl, rfl, rfl⟩
theorem decZpX (zz : Byte) : Statement (.decZpX zz) :=
  ⟨_, (rfl : rowOf? 0xD6#8 = _), rfl, rfl, rfl⟩
theorem decAbsX (addr : Word) : Statement (.decAbsX addr) :=
  ⟨_, (rfl : rowOf? 0xDE#8 = _), rfl, rfl, rfl⟩
theorem inx : Statement (.inx) :=
  ⟨_, (rfl : rowOf? 0xE8#8 = _), rfl, rfl, rfl⟩
theorem iny : Statement (.iny) :=
  ⟨_, (rfl : rowOf? 0xC8#8 = _), rfl, rfl, rfl⟩
theorem dex : Statement (.dex) :=
  ⟨_, (rfl : rowOf? 0xCA#8 = _), rfl, rfl, rfl⟩
theorem dey : Statement (.dey) :=
  ⟨_, (rfl : rowOf? 0x88#8 = _), rfl, rfl, rfl⟩
theorem aslZp (zz : Byte) : Statement (.aslZp zz) :=
  ⟨_, (rfl : rowOf? 0x06#8 = _), rfl, rfl, rfl⟩
theorem aslAcc : Statement (.aslAcc) :=
  ⟨_, (rfl : rowOf? 0x0A#8 = _), rfl, rfl, rfl⟩
theorem aslAbs (addr : Word) : Statement (.aslAbs addr) :=
  ⟨_, (rfl : rowOf? 0x0E#8 = _), rfl, rfl, rfl⟩
theorem aslZpX (zz : Byte) : Statement (.aslZpX zz) :=
  ⟨_, (rfl : rowOf? 0x16#8 = _), rfl, rfl, rfl⟩
theorem aslAbsX (addr : Word) : Statement (.aslAbsX addr) :=
  ⟨_, (rfl : rowOf? 0x1E#8 = _), rfl, rfl, rfl⟩
theorem lsrZp (zz : Byte) : Statement (.lsrZp zz) :=
  ⟨_, (rfl : rowOf? 0x46#8 = _), rfl, rfl, rfl⟩
theorem lsrAcc : Statement (.lsrAcc) :=
  ⟨_, (rfl : rowOf? 0x4A#8 = _), rfl, rfl, rfl⟩
theorem lsrAbs (addr : Word) : Statement (.lsrAbs addr) :=
  ⟨_, (rfl : rowOf? 0x4E#8 = _), rfl, rfl, rfl⟩
theorem lsrZpX (zz : Byte) : Statement (.lsrZpX zz) :=
  ⟨_, (rfl : rowOf? 0x56#8 = _), rfl, rfl, rfl⟩
theorem lsrAbsX (addr : Word) : Statement (.lsrAbsX addr) :=
  ⟨_, (rfl : rowOf? 0x5E#8 = _), rfl, rfl, rfl⟩
theorem rolZp (zz : Byte) : Statement (.rolZp zz) :=
  ⟨_, (rfl : rowOf? 0x26#8 = _), rfl, rfl, rfl⟩
theorem rolAcc : Statement (.rolAcc) :=
  ⟨_, (rfl : rowOf? 0x2A#8 = _), rfl, rfl, rfl⟩
theorem rolAbs (addr : Word) : Statement (.rolAbs addr) :=
  ⟨_, (rfl : rowOf? 0x2E#8 = _), rfl, rfl, rfl⟩
theorem rolZpX (zz : Byte) : Statement (.rolZpX zz) :=
  ⟨_, (rfl : rowOf? 0x36#8 = _), rfl, rfl, rfl⟩
theorem rolAbsX (addr : Word) : Statement (.rolAbsX addr) :=
  ⟨_, (rfl : rowOf? 0x3E#8 = _), rfl, rfl, rfl⟩
theorem rorZp (zz : Byte) : Statement (.rorZp zz) :=
  ⟨_, (rfl : rowOf? 0x66#8 = _), rfl, rfl, rfl⟩
theorem rorAcc : Statement (.rorAcc) :=
  ⟨_, (rfl : rowOf? 0x6A#8 = _), rfl, rfl, rfl⟩
theorem rorAbs (addr : Word) : Statement (.rorAbs addr) :=
  ⟨_, (rfl : rowOf? 0x6E#8 = _), rfl, rfl, rfl⟩
theorem rorZpX (zz : Byte) : Statement (.rorZpX zz) :=
  ⟨_, (rfl : rowOf? 0x76#8 = _), rfl, rfl, rfl⟩
theorem rorAbsX (addr : Word) : Statement (.rorAbsX addr) :=
  ⟨_, (rfl : rowOf? 0x7E#8 = _), rfl, rfl, rfl⟩
theorem jmpAbs (addr : Word) : Statement (.jmpAbs addr) :=
  ⟨_, (rfl : rowOf? 0x4C#8 = _), rfl, rfl, rfl⟩
theorem jmpInd (addr : Word) : Statement (.jmpInd addr) :=
  ⟨_, (rfl : rowOf? 0x6C#8 = _), rfl, rfl, rfl⟩
theorem jsr (addr : Word) : Statement (.jsr addr) :=
  ⟨_, (rfl : rowOf? 0x20#8 = _), rfl, rfl, rfl⟩
theorem rts : Statement (.rts) :=
  ⟨_, (rfl : rowOf? 0x60#8 = _), rfl, rfl, rfl⟩
theorem bpl (rr : Byte) : Statement (.bpl rr) :=
  ⟨_, (rfl : rowOf? 0x10#8 = _), rfl, rfl, rfl⟩
theorem bmi (rr : Byte) : Statement (.bmi rr) :=
  ⟨_, (rfl : rowOf? 0x30#8 = _), rfl, rfl, rfl⟩
theorem bvc (rr : Byte) : Statement (.bvc rr) :=
  ⟨_, (rfl : rowOf? 0x50#8 = _), rfl, rfl, rfl⟩
theorem bvs (rr : Byte) : Statement (.bvs rr) :=
  ⟨_, (rfl : rowOf? 0x70#8 = _), rfl, rfl, rfl⟩
theorem bcc (rr : Byte) : Statement (.bcc rr) :=
  ⟨_, (rfl : rowOf? 0x90#8 = _), rfl, rfl, rfl⟩
theorem bcs (rr : Byte) : Statement (.bcs rr) :=
  ⟨_, (rfl : rowOf? 0xB0#8 = _), rfl, rfl, rfl⟩
theorem bne (rr : Byte) : Statement (.bne rr) :=
  ⟨_, (rfl : rowOf? 0xD0#8 = _), rfl, rfl, rfl⟩
theorem beq (rr : Byte) : Statement (.beq rr) :=
  ⟨_, (rfl : rowOf? 0xF0#8 = _), rfl, rfl, rfl⟩
theorem brk : Statement (.brk) :=
  ⟨_, (rfl : rowOf? 0x00#8 = _), rfl, rfl, rfl⟩
theorem rti : Statement (.rti) :=
  ⟨_, (rfl : rowOf? 0x40#8 = _), rfl, rfl, rfl⟩
theorem clc : Statement (.clc) :=
  ⟨_, (rfl : rowOf? 0x18#8 = _), rfl, rfl, rfl⟩
theorem sec : Statement (.sec) :=
  ⟨_, (rfl : rowOf? 0x38#8 = _), rfl, rfl, rfl⟩
theorem cli : Statement (.cli) :=
  ⟨_, (rfl : rowOf? 0x58#8 = _), rfl, rfl, rfl⟩
theorem sei : Statement (.sei) :=
  ⟨_, (rfl : rowOf? 0x78#8 = _), rfl, rfl, rfl⟩
theorem cld : Statement (.cld) :=
  ⟨_, (rfl : rowOf? 0xD8#8 = _), rfl, rfl, rfl⟩
theorem sed : Statement (.sed) :=
  ⟨_, (rfl : rowOf? 0xF8#8 = _), rfl, rfl, rfl⟩
theorem clv : Statement (.clv) :=
  ⟨_, (rfl : rowOf? 0xB8#8 = _), rfl, rfl, rfl⟩
theorem nop : Statement (.nop) :=
  ⟨_, (rfl : rowOf? 0xEA#8 = _), rfl, rfl, rfl⟩

end Sys2Proof.Laws.TableRow
end

