-- ==== Sys2Proof/Laws/Encoding.lean ====
section
/-! SUPPORT. Bytes and words: a word from its two bytes and back; the row an opcode has. -/

namespace Sys2Proof

theorem joinLE_toNat (lo hi : Byte) : (joinLE lo hi).toNat = hi.toNat * 256 + lo.toNat := by
  rw [joinLE, BitVec.toNat_append, Nat.shiftLeft_eq, Nat.mul_comm, ← Nat.two_pow_add_eq_or_of_lt lo.isLt]

theorem lowByte_toNat (w : Word) : (lowByte w).toNat = w.toNat % 256 := by
  simp [lowByte]

theorem highByte_toNat (w : Word) : (highByte w).toNat = w.toNat / 256 := by
  simp [highByte, Nat.shiftRight_eq_div_pow]
  omega

@[simp] theorem joinLE_bytes (w : Word) : joinLE (lowByte w) (highByte w) = w := by
  apply BitVec.eq_of_toNat_eq
  rw [joinLE_toNat, lowByte_toNat, highByte_toNat]
  omega

@[simp] theorem lowByte_joinLE (lo hi : Byte) : lowByte (joinLE lo hi) = lo := by
  apply BitVec.eq_of_toNat_eq
  rw [lowByte_toNat, joinLE_toNat]
  omega

@[simp] theorem highByte_joinLE (lo hi : Byte) : highByte (joinLE lo hi) = hi := by
  apply BitVec.eq_of_toNat_eq
  rw [highByte_toNat, joinLE_toNat]
  omega

/-- What a row builds is encoded as the row's opcode and the operand bytes it was built from. -/
def Row.Encodes (r : Row) : Prop :=
  match r.build with
  | .none i => encode i = [r.opcode] ∧ r.bytes = 1
  | .byte f => (∀ v, encode (f v) = [r.opcode, v]) ∧ r.bytes = 2
  | .word f => (∀ w, encode (f w) = [r.opcode, lowByte w, highByte w]) ∧ r.bytes = 3

theorem forall_mem_cons' {P : Row → Prop} {r : Row} {l : List Row} (h : P r) (hl : ∀ x ∈ l, P x) :
    ∀ x ∈ r :: l, P x := List.forall_mem_cons.2 ⟨h, hl⟩

theorem Row.encodes_none {r : Row} {i : Instr} (hb : r.build = .none i) (he : encode i = [r.opcode])
    (hn : r.bytes = 1) : r.Encodes := by
  unfold Row.Encodes; rw [hb]; exact ⟨he, hn⟩

theorem Row.encodes_byte {r : Row} {f : Byte → Instr} (hb : r.build = .byte f)
    (he : ∀ v, encode (f v) = [r.opcode, v]) (hn : r.bytes = 2) : r.Encodes := by
  unfold Row.Encodes; rw [hb]; exact ⟨he, hn⟩

theorem Row.encodes_word {r : Row} {f : Word → Instr} (hb : r.build = .word f)
    (he : ∀ w, encode (f w) = [r.opcode, lowByte w, highByte w]) (hn : r.bytes = 3) : r.Encodes := by
  unfold Row.Encodes; rw [hb]; exact ⟨he, hn⟩

theorem opcodeRows0_encode : ∀ r ∈ opcodeRows0, r.Encodes := by
  unfold opcodeRows0
  repeat
    refine forall_mem_cons' (by first
      | exact Row.encodes_none rfl rfl rfl
      | exact Row.encodes_byte rfl (fun _ => rfl) rfl
      | exact Row.encodes_word rfl (fun _ => rfl) rfl) ?_
  exact List.forall_mem_nil _

theorem opcodeRows1_encode : ∀ r ∈ opcodeRows1, r.Encodes := by
  unfold opcodeRows1
  repeat
    refine forall_mem_cons' (by first
      | exact Row.encodes_none rfl rfl rfl
      | exact Row.encodes_byte rfl (fun _ => rfl) rfl
      | exact Row.encodes_word rfl (fun _ => rfl) rfl) ?_
  exact List.forall_mem_nil _

theorem opcodeRows2_encode : ∀ r ∈ opcodeRows2, r.Encodes := by
  unfold opcodeRows2
  repeat
    refine forall_mem_cons' (by first
      | exact Row.encodes_none rfl rfl rfl
      | exact Row.encodes_byte rfl (fun _ => rfl) rfl
      | exact Row.encodes_word rfl (fun _ => rfl) rfl) ?_
  exact List.forall_mem_nil _

theorem opcodeRows3_encode : ∀ r ∈ opcodeRows3, r.Encodes := by
  unfold opcodeRows3
  repeat
    refine forall_mem_cons' (by first
      | exact Row.encodes_none rfl rfl rfl
      | exact Row.encodes_byte rfl (fun _ => rfl) rfl
      | exact Row.encodes_word rfl (fun _ => rfl) rfl) ?_
  exact List.forall_mem_nil _

theorem opcodeRows4_encode : ∀ r ∈ opcodeRows4, r.Encodes := by
  unfold opcodeRows4
  repeat
    refine forall_mem_cons' (by first
      | exact Row.encodes_none rfl rfl rfl
      | exact Row.encodes_byte rfl (fun _ => rfl) rfl
      | exact Row.encodes_word rfl (fun _ => rfl) rfl) ?_
  exact List.forall_mem_nil _

theorem opcodeRows5_encode : ∀ r ∈ opcodeRows5, r.Encodes := by
  unfold opcodeRows5
  repeat
    refine forall_mem_cons' (by first
      | exact Row.encodes_none rfl rfl rfl
      | exact Row.encodes_byte rfl (fun _ => rfl) rfl
      | exact Row.encodes_word rfl (fun _ => rfl) rfl) ?_
  exact List.forall_mem_nil _

theorem opcodeRows6_encode : ∀ r ∈ opcodeRows6, r.Encodes := by
  unfold opcodeRows6
  repeat
    refine forall_mem_cons' (by first
      | exact Row.encodes_none rfl rfl rfl
      | exact Row.encodes_byte rfl (fun _ => rfl) rfl
      | exact Row.encodes_word rfl (fun _ => rfl) rfl) ?_
  exact List.forall_mem_nil _

theorem opcodeRows7_encode : ∀ r ∈ opcodeRows7, r.Encodes := by
  unfold opcodeRows7
  repeat
    refine forall_mem_cons' (by first
      | exact Row.encodes_none rfl rfl rfl
      | exact Row.encodes_byte rfl (fun _ => rfl) rfl
      | exact Row.encodes_word rfl (fun _ => rfl) rfl) ?_
  exact List.forall_mem_nil _

theorem opcodeRows8_encode : ∀ r ∈ opcodeRows8, r.Encodes := by
  unfold opcodeRows8
  repeat
    refine forall_mem_cons' (by first
      | exact Row.encodes_none rfl rfl rfl
      | exact Row.encodes_byte rfl (fun _ => rfl) rfl
      | exact Row.encodes_word rfl (fun _ => rfl) rfl) ?_
  exact List.forall_mem_nil _

theorem opcodeRows9_encode : ∀ r ∈ opcodeRows9, r.Encodes := by
  unfold opcodeRows9
  repeat
    refine forall_mem_cons' (by first
      | exact Row.encodes_none rfl rfl rfl
      | exact Row.encodes_byte rfl (fun _ => rfl) rfl
      | exact Row.encodes_word rfl (fun _ => rfl) rfl) ?_
  exact List.forall_mem_nil _

theorem opcodeRowsA_encode : ∀ r ∈ opcodeRowsA, r.Encodes := by
  unfold opcodeRowsA
  repeat
    refine forall_mem_cons' (by first
      | exact Row.encodes_none rfl rfl rfl
      | exact Row.encodes_byte rfl (fun _ => rfl) rfl
      | exact Row.encodes_word rfl (fun _ => rfl) rfl) ?_
  exact List.forall_mem_nil _

theorem opcodeRowsB_encode : ∀ r ∈ opcodeRowsB, r.Encodes := by
  unfold opcodeRowsB
  repeat
    refine forall_mem_cons' (by first
      | exact Row.encodes_none rfl rfl rfl
      | exact Row.encodes_byte rfl (fun _ => rfl) rfl
      | exact Row.encodes_word rfl (fun _ => rfl) rfl) ?_
  exact List.forall_mem_nil _

theorem opcodeRowsC_encode : ∀ r ∈ opcodeRowsC, r.Encodes := by
  unfold opcodeRowsC
  repeat
    refine forall_mem_cons' (by first
      | exact Row.encodes_none rfl rfl rfl
      | exact Row.encodes_byte rfl (fun _ => rfl) rfl
      | exact Row.encodes_word rfl (fun _ => rfl) rfl) ?_
  exact List.forall_mem_nil _

theorem opcodeRowsD_encode : ∀ r ∈ opcodeRowsD, r.Encodes := by
  unfold opcodeRowsD
  repeat
    refine forall_mem_cons' (by first
      | exact Row.encodes_none rfl rfl rfl
      | exact Row.encodes_byte rfl (fun _ => rfl) rfl
      | exact Row.encodes_word rfl (fun _ => rfl) rfl) ?_
  exact List.forall_mem_nil _

theorem opcodeRowsE_encode : ∀ r ∈ opcodeRowsE, r.Encodes := by
  unfold opcodeRowsE
  repeat
    refine forall_mem_cons' (by first
      | exact Row.encodes_none rfl rfl rfl
      | exact Row.encodes_byte rfl (fun _ => rfl) rfl
      | exact Row.encodes_word rfl (fun _ => rfl) rfl) ?_
  exact List.forall_mem_nil _

theorem opcodeRowsF_encode : ∀ r ∈ opcodeRowsF, r.Encodes := by
  unfold opcodeRowsF
  repeat
    refine forall_mem_cons' (by first
      | exact Row.encodes_none rfl rfl rfl
      | exact Row.encodes_byte rfl (fun _ => rfl) rfl
      | exact Row.encodes_word rfl (fun _ => rfl) rfl) ?_
  exact List.forall_mem_nil _

theorem opcodeRows_encode (k : Nat) : ∀ r ∈ opcodeRows k, r.Encodes := by
  unfold opcodeRows
  split
  · exact opcodeRows0_encode
  · exact opcodeRows1_encode
  · exact opcodeRows2_encode
  · exact opcodeRows3_encode
  · exact opcodeRows4_encode
  · exact opcodeRows5_encode
  · exact opcodeRows6_encode
  · exact opcodeRows7_encode
  · exact opcodeRows8_encode
  · exact opcodeRows9_encode
  · exact opcodeRowsA_encode
  · exact opcodeRowsB_encode
  · exact opcodeRowsC_encode
  · exact opcodeRowsD_encode
  · exact opcodeRowsE_encode
  · exact opcodeRowsF_encode
  · simp

theorem rowOf?_some {opc : Byte} {r : Row} (h : rowOf? opc = some r) : r.Encodes ∧ r.opcode = opc := by
  unfold rowOf? at h
  exact ⟨opcodeRows_encode _ r (List.mem_of_find?_eq_some h), by simpa using List.find?_some h⟩

/-- Every instruction's opcode has a row, with its mnemonic and the length of its encoding. -/
theorem rowOf?_opcode (i : Instr) :
    ∃ r, rowOf? i.opcode = some r ∧ r.opcode = i.opcode ∧ r.mnemonic = i.mnemonic ∧ r.bytes = (encode i).length := by
  cases i <;> simp only [encode, Instr.opcode, Instr.operand, Operand.bytes, Instr.mnemonic] <;>
    exact ⟨_, rfl, rfl, rfl, rfl⟩

end Sys2Proof
end

