-- ==== Sys2Proof/Laws/Evolves.lean ====
section
/-! SUPPORT. What every part of an instruction keeps, said once: the platform, well-formed devices, the numbering and
the addresses of the log, and the written marks; then for every instruction. -/

namespace Sys2Proof.Machine

/-- The records `l` continue a log whose sequence counter stood at `n`, with 16-bit addresses under `WRAP16`. -/
def Continues (cfg : Config) (n : Nat) (l : List Record) : Prop :=
  ∀ k r, l[k]? = some r → r.sequence = n + k ∧ (cfg.eaOverflow = .wrap16 → r.address.toNat < 0x10000)

theorem Continues.nil (cfg : Config) (n : Nat) : Continues cfg n [] := by simp [Continues]

theorem Continues.append {cfg : Config} {n : Nat} {l l' : List Record} (h : Continues cfg n l)
    (h' : Continues cfg (n + l.length) l') : Continues cfg n (l ++ l') := by
  intro k r hr
  rw [List.getElem?_append] at hr
  split at hr
  · exact h k r hr
  · have := h' _ _ hr
    exact ⟨by omega, this.2⟩

/-- Nothing logged and no device changed. -/
theorem keepsOtherDevices.of_bus {s t : State} (h : t.bus = s.bus) : keepsOtherDevices s t :=
  ⟨[], by simp [h], fun _ _ => by rw [h]⟩

/-- With no record appended no device changes. -/
theorem keepsOtherDevices.devs {s t : State} (h : keepsOtherDevices s t) (hl : t.bus.log = s.bus.log) :
    t.bus.devs = s.bus.devs := by
  obtain ⟨l, h1, h2⟩ := h
  rw [hl] at h1
  obtain rfl : l = [] := by simpa using h1.symm
  exact List.ext_getElem? fun d => h2 d (by simp)

/-- What every part of an instruction keeps. -/
structure Evolves (s t : State) : Prop where
  machine : keepsMachine s t
  wf : s.bus.devs.all Device.wf = true → t.bus.devs.all Device.wf = true
  log : ∃ l, t.bus.log = s.bus.log ++ l ∧ t.bus.seq = s.bus.seq + l.length ∧ Continues s.cfg s.bus.seq l
  latch : s.cfg.eaOverflow = .wrap16 → t.addrLatch = s.addrLatch ∨ t.addrLatch.toNat < 0x10000
  regMarks : ∀ r, s.regWritten r = true → t.regWritten r = true
  flagMarks : ∀ f, s.flagWritten f = true → t.flagWritten f = true
  devices : keepsOtherDevices s t

theorem Evolves.refl (s : State) : Evolves s s :=
  ⟨⟨rfl, rfl, rfl, rfl, rfl, rfl, rfl, rfl⟩, id, ⟨[], by simp, by simp, Continues.nil _ _⟩, fun _ => .inl rfl,
    fun _ h => h, fun _ h => h, .of_bus rfl⟩

variable {s t u : State}

theorem Evolves.trans (h : Evolves s t) (h' : Evolves t u) : Evolves s u where
  machine := ⟨h'.machine.cfg.trans h.machine.cfg, h'.machine.opcode.trans h.machine.opcode,
    h'.machine.unknownSeen.trans h.machine.unknownSeen, h'.machine.map.trans h.machine.map,
    h'.machine.order.trans h.machine.order, h'.machine.lastAddress.trans h.machine.lastAddress,
    h'.machine.lastData.trans h.machine.lastData, h'.machine.fixed.trans h.machine.fixed⟩
  wf hw := h'.wf (h.wf hw)
  log := by
    obtain ⟨l, hl, hn, hc⟩ := h.log
    obtain ⟨l', hl', hn', hc'⟩ := h'.log
    refine ⟨l ++ l', by rw [hl', hl, List.append_assoc], by rw [hn', hn, List.length_append]; omega, hc.append ?_⟩
    rw [h.machine.cfg, hn] at hc'
    exact hc'
  latch hw := by
    have h1 := h.latch hw
    have h2 := h'.latch (h.machine.cfg ▸ hw)
    rcases h2 with h2 | h2
    · rw [h2]; exact h1
    · exact .inr h2
  regMarks r hr := h'.regMarks r (h.regMarks r hr)
  flagMarks f hf := h'.flagMarks f (h.flagMarks f hf)
  devices := by
    obtain ⟨l, hl, hd⟩ := h.devices
    obtain ⟨l', hl', hd'⟩ := h'.devices
    refine ⟨l ++ l', by rw [hl', hl, List.append_assoc], fun d hn => ?_⟩
    rw [hd' d fun r hr => ?_, hd d fun r hr => hn r (List.mem_append_left _ hr)]
    rw [Bus.owner_congr h.machine.map]
    exact hn r (List.mem_append_right _ hr)

/-- A change of the core that keeps the bus, the address latch and the written marks. -/
theorem Evolves.core (h : Evolves s t) (hc : u.cfg = t.cfg) (ho : u.opcode = t.opcode)
    (hu : u.unknownSeen = t.unknownSeen) (hb : u.bus = t.bus) (hl : u.addrLatch = t.addrLatch)
    (hr : ∀ r, t.regWritten r = true → u.regWritten r = true)
    (hf : ∀ f, t.flagWritten f = true → u.flagWritten f = true) : Evolves s u :=
  h.trans ⟨⟨hc, ho, hu, by rw [hb], by rw [hb], by rw [hb], by rw [hb], by rw [hb]⟩, by rw [hb]; exact id,
    ⟨[], by simp [hb], by simp [hb], Continues.nil _ _⟩, fun _ => .inl hl, hr, hf,
    .of_bus hb⟩

theorem Evolves.setReg (h : Evolves s t) (r : Reg) (v : Byte) : Evolves s (t.setReg r v) :=
  h.core (by simp) (by simp) (by simp) (by simp) (by simp) (fun q hq => by simp [hq]) (fun f hf => by simp [hf])

theorem Evolves.setFlag (h : Evolves s t) (f : Flag) (v : Bool) : Evolves s (t.setFlag f v) :=
  h.core (by simp) (by simp) (by simp) (by simp) (by simp) (fun q hq => by simp [hq]) (fun g hg => by simp [hg])

theorem Evolves.setNZ (h : Evolves s t) (r : Byte) : Evolves s (t.setNZ r) := (h.setFlag _ _).setFlag _ _

theorem Evolves.setP (h : Evolves s t) (v : Byte) : Evolves s (t.setP v) :=
  h.core rfl rfl rfl rfl rfl (fun _ hq => hq) (fun g _ => by simp)

theorem Evolves.setPc (h : Evolves s t) (v : Word) : Evolves s (t.setPc v) :=
  h.core rfl rfl rfl rfl rfl (fun _ hq => hq) (fun _ hg => hg)

theorem Evolves.setSp (h : Evolves s t) (v : Byte) : Evolves s (t.setSp v) :=
  h.core rfl rfl rfl rfl rfl (fun _ hq => hq) (fun _ hg => hg)

theorem Evolves.useDraws (h : Evolves s t) (n : Nat) : Evolves s (t.useDraws n) :=
  h.core rfl rfl rfl rfl rfl (fun _ hq => hq) (fun _ hg => hg)

theorem Evolves.retire (h : Evolves s t) (c : Nat) : Evolves s (t.retire c) :=
  h.core rfl rfl rfl rfl rfl (fun _ hq => hq) (fun _ hg => hg)

theorem Evolves.setAddrLatch (h : Evolves s t) {v : BusAddr} (hv : t.cfg.eaOverflow = .wrap16 → v.toNat < 0x10000) :
    Evolves s (t.setAddrLatch v) :=
  h.trans ⟨⟨rfl, rfl, rfl, rfl, rfl, rfl, rfl, rfl⟩, id, ⟨[], by simp, by simp, Continues.nil _ _⟩,
    fun hw => .inr (hv hw), fun _ h => h, fun _ h => h, .of_bus rfl⟩

theorem Evolves.accessed (h : Evolves s t) {k : AccessKind} {a : BusAddr} {w : Word} (e : Accessed k a w t u)
    (ha : t.cfg.eaOverflow = .wrap16 → a.toNat < 0x10000) : Evolves s u :=
  h.trans ⟨⟨e.core.cfg, e.core.opcode, e.core.unknownSeen, e.map, e.order, e.lastAddress, e.lastData, e.fixed⟩, e.wf,
    ⟨_, e.log, e.seq, fun k r hr => by
      cases k with
      | zero => cases hr; exact ⟨rfl, ha⟩
      | succ k => cases hr⟩,
    fun _ => .inl e.latch, fun r hr => by rw [e.core.regWritten]; exact hr,
    fun f hf => by rw [e.core.flagWritten]; exact hf,
    ⟨_, e.log, fun d hd => e.others d (hd _ (List.mem_singleton.2 rfl))⟩⟩

theorem Evolves.memRead8 (h : Evolves s t) {a : BusAddr} (ha : t.cfg.eaOverflow = .wrap16 → a.toNat < 0x10000) :
    Evolves s (memRead8 a t).2 :=
  h.accessed (memRead8_accessed a t) ha

theorem Evolves.memRead16 (h : Evolves s t) {a : BusAddr} {r : Word × State}
    (ha : t.cfg.eaOverflow = .wrap16 → a.toNat < 0x10000) (hr : memRead16 a t = .ok r) : Evolves s r.2 :=
  h.accessed (memRead16_accessed hr).1 ha

theorem Evolves.memWrite8 (h : Evolves s t) {a : BusAddr} (v : Byte)
    (ha : t.cfg.eaOverflow = .wrap16 → a.toNat < 0x10000) : Evolves s (memWrite8 a v t) :=
  h.accessed (memWrite8_accessed a v t) ha

theorem Evolves.memWrite16 (h : Evolves s t) {a : BusAddr} {w : Word}
    (ha : t.cfg.eaOverflow = .wrap16 → a.toNat < 0x10000) (hw : memWrite16 a w t = .ok u) : Evolves s u :=
  h.accessed (memWrite16_accessed hw) ha

/-! ## Addresses -/

theorem setWidth_byte_lt (b : Byte) : (b.setWidth 17 : BusAddr).toNat < 0x10000 := by
  simp; omega

theorem setWidth_word_lt (w : Word) : (w.setWidth 17 : BusAddr).toNat < 0x10000 := by
  simp; omega

theorem stackAddr_lt (cfg : Config) (sp : Byte) : (stackAddr cfg sp).toNat < 0x10000 := setWidth_word_lt _

theorem zpIndexed_lt (cfg : Config) (zz i : Byte) : (zpIndexed cfg zz i).toNat < 0x10000 := by
  unfold zpIndexed
  split
  · exact setWidth_byte_lt _
  · simp; omega

theorem indexed_lt {cfg : Config} (h : cfg.eaOverflow = .wrap16) (base : Word) (i : Byte) :
    (indexed cfg base i).toNat < 0x10000 := by
  unfold indexed
  rw [h]
  exact setWidth_word_lt _

/-- A resolver that completes, and its value. -/
theorem Evolves.resolve (h : Evolves s t) {o : Operand} {v : Resolved} (hv : resolve o t = .ok v) :
    Evolves s v.state ∧ (t.cfg.eaOverflow = .wrap16 → v.value.toNat < 0x10000) := by
  have hread : ∀ {a : BusAddr} {r : Word × State}, Machine.memRead16 a t = .ok r → r.2.cfg = t.cfg :=
    fun hr => (memRead16_accessed hr).1.core.cfg
  cases o <;> simp only [Machine.resolve, readPtr, Result.bind_ok, Result.pure_ok, Except.ok.injEq] at hv
  case imm => subst hv; exact ⟨h.setAddrLatch fun _ => setWidth_byte_lt _, fun _ => setWidth_byte_lt _⟩
  case zp => subst hv; exact ⟨h.setAddrLatch fun _ => setWidth_byte_lt _, fun _ => setWidth_byte_lt _⟩
  case zpX => obtain ⟨_, _, rfl⟩ := hv; exact ⟨h.setAddrLatch fun _ => zpIndexed_lt _ _ _, fun _ => zpIndexed_lt _ _ _⟩
  case zpY => obtain ⟨_, _, rfl⟩ := hv; exact ⟨h.setAddrLatch fun _ => zpIndexed_lt _ _ _, fun _ => zpIndexed_lt _ _ _⟩
  case abs => subst hv; exact ⟨h.setAddrLatch fun _ => setWidth_word_lt _, fun _ => setWidth_word_lt _⟩
  case absX => obtain ⟨_, _, rfl⟩ := hv; exact ⟨h.setAddrLatch fun hw => indexed_lt hw _ _, fun hw => indexed_lt hw _ _⟩
  case absY => obtain ⟨_, _, rfl⟩ := hv; exact ⟨h.setAddrLatch fun hw => indexed_lt hw _ _, fun hw => indexed_lt hw _ _⟩
  case indX =>
    obtain ⟨_, _, r, hr, rfl⟩ := hv
    exact ⟨(h.memRead16 (fun _ => zpIndexed_lt _ _ _) hr).setAddrLatch fun _ => setWidth_word_lt _,
      fun _ => setWidth_word_lt _⟩
  case indY =>
    obtain ⟨r, hr, _, _, rfl⟩ := hv
    exact ⟨(h.memRead16 (fun _ => setWidth_byte_lt _) hr).setAddrLatch fun hw => indexed_lt hw _ _,
      fun hw => indexed_lt (by rw [hread hr]; exact hw) _ _⟩
  case ind =>
    obtain ⟨r, hr, rfl⟩ := hv
    exact ⟨(h.memRead16 (fun _ => setWidth_word_lt _) hr).setAddrLatch fun _ => setWidth_word_lt _,
      fun _ => setWidth_word_lt _⟩
  case rel => subst hv; exact ⟨h.setAddrLatch fun _ => setWidth_byte_lt _, fun _ => setWidth_byte_lt _⟩

theorem Evolves.operand (h : Evolves s t) {o : Operand} {v : Resolved} (hv : Machine.resolve o t = .ok v) :
    Evolves s (readOperand o v).2 := by
  have hr := h.resolve hv
  have hc : v.state.cfg = t.cfg := (resolve_effect hv).core.cfg
  cases o
  case imm => exact hr.1
  all_goals exact hr.1.memRead8 fun hw => hr.2 (by rw [← hc]; exact hw)

/-! ## The shared operations -/

theorem Evolves.push8 (h : Evolves s t) (b : Byte) : Evolves s (push8 b t) :=
  (h.setSp _).memWrite8 b fun _ => stackAddr_lt _ _

theorem Evolves.push16 (h : Evolves s t) {w : Word} (hu : push16 w t = .ok u) : Evolves s u :=
  (h.setSp _).memWrite16 (fun _ => stackAddr_lt _ _) hu

theorem Evolves.pull8q (h : Evolves s t) : Evolves s (pull8q t).2 :=
  (h.memRead8 fun _ => stackAddr_lt _ _).setSp _

theorem Evolves.pull16 (h : Evolves s t) {r : Word × State} (hr : pull16 t = .ok r) : Evolves s r.2 := by
  simp only [Machine.pull16, Result.bind_ok, Result.pure_ok] at hr
  obtain ⟨a, ha, rfl⟩ := hr
  exact (h.memRead16 (fun _ => stackAddr_lt _ _) ha).setSp _

/-- A byte's change keeps everything but C. -/
theorem modifier_ok {mn : Mnemonic} {m : Byte} {s : State} {r : Byte × State} (h : modifier mn m s = .ok r) :
    r.2 = s ∨ ∃ c, r.2 = s.setFlag .c c := by
  unfold modifier at h
  split_ifs at h
  · cases h; exact .inl rfl
  · cases h; exact .inl rfl
  · cases h; exact .inr ⟨_, rfl⟩
  · cases h; exact .inr ⟨_, rfl⟩
  · simp only [rolShift, Result.bind_ok, Result.pure_ok] at h
    obtain ⟨c, _, rfl⟩ := h
    exact .inr ⟨_, rfl⟩
  · simp only [rorShift, Result.bind_ok, Result.pure_ok] at h
    obtain ⟨c, _, rfl⟩ := h
    exact .inr ⟨_, rfl⟩

theorem Evolves.modifier (h : Evolves s t) {mn : Mnemonic} {m : Byte} {r : Byte × State}
    (hr : modifier mn m t = .ok r) : Evolves s r.2 := by
  rcases modifier_ok hr with e | ⟨c, e⟩ <;> rw [e]
  · exact h
  · exact h.setFlag _ _

theorem outcome_next {r : Result State} : outcome r = .next t ↔ r = .ok t := by
  cases r <;> simp [outcome]

theorem outcome_fault {r : Result State} {f : Fault} : outcome r = .fault f ↔ r = .error f := by
  cases r <;> simp [outcome]

theorem outcome_ne_refused (r : Result State) (q : Refusal) : outcome r ≠ .refused q := by
  cases r <;> simp [outcome]

/-- What every instruction that completes keeps. -/
theorem exec_evolves {i : Instr} (h : exec i s = .next t) : Evolves s t := by
  have e := Evolves.refl s
  cases exec_shape i s with
  | load r o _ _ he =>
    rw [he, outcome_next] at h
    simp only [load, Result.bind_ok, Result.pure_ok] at h
    obtain ⟨v, hv, rfl⟩ := h
    exact (((e.operand hv).setReg _ _).setNZ _).retire _
  | store r o _ _ he =>
    rw [he, outcome_next] at h
    simp only [store, Result.bind_ok, Result.pure_ok] at h
    obtain ⟨v, hv, b, hb, rfl⟩ := h
    have hr := e.resolve hv
    have hc : v.state.cfg = s.cfg := (resolve_effect hv).core.cfg
    have hw := hr.1.memWrite8 (a := v.value) b fun hw => hr.2 (by rw [← hc]; exact hw)
    split
    · exact (hw.setNZ _).retire _
    · exact hw.retire _
  | transfer src dst _ _ he =>
    rw [he, outcome_next] at h
    simp only [transfer, Result.bind_ok, Result.pure_ok] at h
    obtain ⟨v, _, rfl⟩ := h
    exact ((e.setReg _ _).setNZ _).retire _
  | tsx _ _ he =>
    rw [he, outcome_next] at h
    cases h
    exact ((e.setReg _ _).setNZ _).retire _
  | txs _ _ he =>
    rw [he, outcome_next] at h
    simp only [transferXToSp, Result.bind_ok, Result.pure_ok] at h
    obtain ⟨v, _, rfl⟩ := h
    exact (e.setSp _).retire _
  | pha _ _ he =>
    rw [he, outcome_next] at h
    simp only [pushAcc, Result.bind_ok, Result.pure_ok] at h
    obtain ⟨v, _, rfl⟩ := h
    exact (e.push8 _).retire _
  | php _ _ he =>
    rw [he, outcome_next] at h
    simp only [pushStatus, Result.bind_ok, Result.pure_ok] at h
    obtain ⟨v, _, rfl⟩ := h
    exact (e.push8 _).retire _
  | pla _ _ he =>
    rw [he, outcome_next] at h
    cases h
    exact ((e.pull8q.setReg _ _).setNZ _).retire _
  | plp _ _ he =>
    rw [he, outcome_next] at h
    cases h
    exact (e.pull8q.setP _).retire _
  | arith f o _ _ he =>
    rw [he, outcome_next] at h
    simp only [arith, Result.bind_ok] at h
    obtain ⟨v, hv, d, _, h⟩ := h
    have ho := e.operand hv
    split at h
    · simp only [Result.pure_ok] at h
      subst h
      exact ((((((ho.setReg _ _).setFlag _ _).setFlag _ _).setFlag _ _).setFlag _ _).useDraws _).retire _
    · simp only [Result.bind_ok, Result.pure_ok] at h
      obtain ⟨a, _, c, _, rfl⟩ := h
      exact ((((ho.setFlag _ _).setFlag _ _).setReg _ _).setNZ _).retire _
  | logic f o _ _ he =>
    rw [he, outcome_next] at h
    simp only [logic, Result.bind_ok, Result.pure_ok] at h
    obtain ⟨v, hv, a, _, rfl⟩ := h
    exact (((e.operand hv).setReg _ _).setNZ _).retire _
  | bit o _ _ he =>
    rw [he, outcome_next] at h
    simp only [bitTest, Result.bind_ok, Result.pure_ok] at h
    obtain ⟨v, hv, a, _, rfl⟩ := h
    exact ((((e.operand hv).setFlag _ _).setFlag _ _).setFlag _ _).retire _
  | compare r o _ _ he =>
    rw [he, outcome_next] at h
    simp only [compareReg, Result.bind_ok, Result.pure_ok] at h
    obtain ⟨v, hv, a, _, rfl⟩ := h
    exact ((((e.operand hv).setFlag _ _).setFlag _ _).setFlag _ _).retire _
  | modifyMem o _ _ he =>
    rw [he, outcome_next] at h
    simp only [modifyMem, Result.bind_ok, Result.pure_ok] at h
    obtain ⟨v, hv, r, hr, rfl⟩ := h
    have hs := e.resolve hv
    have hc : v.state.cfg = s.cfg := (resolve_effect hv).core.cfg
    have ha : v.state.cfg.eaOverflow = .wrap16 → v.value.toNat < 0x10000 := fun hw => hs.2 (by rw [← hc]; exact hw)
    have hm := hs.1.memRead8 ha
    have hcm : r.2.cfg = v.state.cfg := by
      rcases modifier_ok hr with e | ⟨c, e⟩ <;> rw [e]
      · exact (memRead8_effect _ _).core.cfg
      · simp only [State.setFlag_cfg]; exact (memRead8_effect _ _).core.cfg
    exact (((hm.modifier hr).memWrite8 _ fun hw => ha (by rw [← hcm]; exact hw)).setNZ _).retire _
  | bump r f _ _ he =>
    rw [he, outcome_next] at h
    simp only [bumpReg, Result.bind_ok, Result.pure_ok] at h
    obtain ⟨v, _, rfl⟩ := h
    exact ((e.setReg _ _).setNZ _).retire _
  | modifyAcc _ _ he =>
    rw [he, outcome_next] at h
    simp only [modifyAcc, Result.bind_ok, Result.pure_ok] at h
    obtain ⟨m, _, r, hr, rfl⟩ := h
    exact (((e.modifier hr).setReg _ _).setNZ _).retire _
  | jmp o _ _ he =>
    rw [he, outcome_next] at h
    simp only [jump, Result.bind_ok, Result.pure_ok] at h
    obtain ⟨v, hv, rfl⟩ := h
    exact ((e.resolve hv).1.setPc _).retire _
  | jsr o _ _ he =>
    rw [he, outcome_next] at h
    simp only [jumpSubroutine, Result.bind_ok, Result.pure_ok] at h
    obtain ⟨v, hv, u, hu, rfl⟩ := h
    exact (((e.resolve hv).1.push16 hu).setPc _).retire _
  | rts _ _ he =>
    rw [he, outcome_next] at h
    simp only [returnSubroutine, Result.bind_ok, Result.pure_ok] at h
    obtain ⟨r, hr, rfl⟩ := h
    exact ((e.pull16 hr).setPc _).retire _
  | branch f on o _ _ he =>
    rw [he, outcome_next] at h
    simp only [branch, Result.bind_ok] at h
    obtain ⟨v, hv, b, _, h⟩ := h
    split at h <;> simp only [Result.pure_ok] at h <;> subst h
    · exact ((e.resolve hv).1.setPc _).retire _
    · exact (e.resolve hv).1.retire _
  | brk _ _ he =>
    rw [he, outcome_next] at h
    simp only [breakEntry, takeBreak, Result.bind_ok, Result.pure_ok] at h
    obtain ⟨u, ⟨st, _, s1, h1, v, hv, rfl⟩, rfl⟩ := h
    exact (((((e.push16 h1).push8 _).setFlag _ _).memRead16 (fun _ => setWidth_word_lt _) hv).setPc _).retire _
  | rti _ _ he =>
    rw [he, outcome_next] at h
    simp only [returnInterrupt, returnFromBreak, Result.bind_ok, Result.pure_ok] at h
    obtain ⟨u, ⟨w, hw, rfl⟩, rfl⟩ := h
    exact (((((e.memRead8 fun _ => stackAddr_lt _ _).setP _).setSp _).pull16 hw).setPc _).retire _
  | flag f v _ _ he =>
    rw [he, outcome_next] at h
    cases h
    exact (e.setFlag _ _).retire _
  | nop _ _ he =>
    rw [he, outcome_next] at h
    cases h
    exact e.retire _

end Sys2Proof.Machine
end

