-- ==== Sys2Proof/Laws/Inversion.lean ====
section
/-! SUPPORT. Inversion of `exec`: what state an instruction that completes leaves, shape by shape, and the only faults of
one that does not. -/

namespace Sys2Proof.Machine

/-- The state an instruction leaves, for each shape. -/
inductive Completed (i : Instr) (s t : State) : Prop where
  | load (r : Reg) (o : Operand) (v : Resolved) (h : (i.mnemonic, r) ∈ Mnemonic.loads) (ho : i.operand = some o)
      (hv : resolve o s = .ok v)
      (ht : t = (((readOperand o v).2.setReg r (readOperand o v).1).setNZ (readOperand o v).1).retire
        (readCost s.cfg i.opcode v.crossed))
  | store (r : Reg) (o : Operand) (v : Resolved) (h : (i.mnemonic, r) ∈ Mnemonic.stores) (ho : i.operand = some o)
      (hv : resolve o s = .ok v) (hr : s.regWritten r = true)
      (ht : t = (if s.cfg.storeSetsNZ then (memWrite8 v.value (s.reg r) v.state).setNZ (s.reg r)
        else memWrite8 v.value (s.reg r) v.state).retire (baseCost s.cfg i.opcode))
  | transfer (src dst : Reg)
      (h : (i.mnemonic, src, dst) ∈ [(.tax, .a, .x), (.tay, .a, .y), (.txa, .x, .a), ((.tya : Mnemonic), Reg.y, Reg.a)])
      (ho : i.operand = none) (hr : s.regWritten src = true)
      (ht : t = ((s.setReg dst (s.reg src)).setNZ (s.reg src)).retire (baseCost s.cfg i.opcode))
  | tsx (h : i.mnemonic = .tsx) (ho : i.operand = none)
      (ht : t = ((s.setReg .x s.sp).setNZ s.sp).retire (baseCost s.cfg i.opcode))
  | txs (h : i.mnemonic = .txs) (ho : i.operand = none) (hr : s.regWritten .x = true)
      (ht : t = (s.setSp s.x).retire (baseCost s.cfg i.opcode))
  | pha (h : i.mnemonic = .pha) (ho : i.operand = none) (hr : s.regWritten .a = true)
      (ht : t = (push8 s.a s).retire (baseCost s.cfg i.opcode))
  | php (st : Byte) (h : i.mnemonic = .php) (ho : i.operand = none) (hp : pushedStatus s = .ok st)
      (ht : t = (push8 st s).retire (baseCost s.cfg i.opcode))
  | pla (h : i.mnemonic = .pla) (ho : i.operand = none)
      (ht : t = (((pull8q s).2.setReg .a (pull8q s).1).setNZ (pull8q s).1).retire (baseCost s.cfg i.opcode))
  | plp (h : i.mnemonic = .plp) (ho : i.operand = none)
      (ht : t = ((pull8q s).2.setP (pull8q s).1).retire (baseCost s.cfg i.opcode))
  | decimal (o : Operand) (v : Resolved) (h : i.mnemonic ∈ [.adc, .sbc]) (ho : i.operand = some o)
      (hv : resolve o s = .ok v) (hd : s.flagWritten .d = true) (hn : s.decimalDraws)
      (ht : t = (decimalDraw (readOperand o v).2).retire (readCost s.cfg i.opcode v.crossed))
  | arith (f : Byte → Byte → Bool → ArithOut) (o : Operand) (v : Resolved) (h : i.mnemonic ∈ [.adc, .sbc])
      (ho : i.operand = some o) (hv : resolve o s = .ok v) (hd : s.flagWritten .d = true) (hn : ¬ s.decimalDraws)
      (ha : s.regWritten .a = true) (hc : s.flagWritten .c = true)
      (ht : t = ((readOperand o v).2.setArith (f s.a (readOperand o v).1 (s.flag .c))).retire
        (readCost s.cfg i.opcode v.crossed))
  | logic (f : Byte → Byte → Byte) (o : Operand) (v : Resolved) (h : i.mnemonic ∈ [.and, .ora, .eor])
      (ho : i.operand = some o) (hv : resolve o s = .ok v) (ha : s.regWritten .a = true)
      (ht : t = (((readOperand o v).2.setReg .a (f s.a (readOperand o v).1)).setNZ
        (f s.a (readOperand o v).1)).retire (readCost s.cfg i.opcode v.crossed))
  | bit (o : Operand) (v : Resolved) (h : i.mnemonic = .bit) (ho : i.operand = some o) (hv : resolve o s = .ok v)
      (ha : s.regWritten .a = true)
      (ht : t = ((readOperand o v).2.setBitTest s.a (readOperand o v).1).retire (baseCost s.cfg i.opcode))
  | compare (r : Reg) (o : Operand) (v : Resolved) (h : (i.mnemonic, r) ∈ Mnemonic.compares) (ho : i.operand = some o)
      (hv : resolve o s = .ok v) (hr : s.regWritten r = true)
      (ht : t = ((readOperand o v).2.setCompare (s.reg r) (readOperand o v).1).retire
        (readCost s.cfg i.opcode v.crossed))
  | modifyMem (o : Operand) (v : Resolved) (r : Byte × State) (h : i.mnemonic ∈ [.inc, .dec, .asl, .lsr, .rol, .ror])
      (ho : i.operand = some o) (hv : resolve o s = .ok v)
      (hm : modifier i.mnemonic (memRead8 v.value v.state).1 (memRead8 v.value v.state).2 = .ok r)
      (ht : t = ((memWrite8 v.value r.1 r.2).setNZ r.1).retire (baseCost s.cfg i.opcode))
  | bump (r : Reg) (f : Byte → Byte)
      (h : (i.mnemonic, r) ∈ [(.inx, .x), (.iny, .y), (.dex, .x), ((.dey : Mnemonic), Reg.y)]) (ho : i.operand = none)
      (hr : s.regWritten r = true)
      (ht : t = ((s.setReg r (f (s.reg r))).setNZ (f (s.reg r))).retire (baseCost s.cfg i.opcode))
  | modifyAcc (r : Byte × State) (h : i.mnemonic ∈ [.asl, .lsr, .rol, .ror]) (ho : i.operand = none)
      (ha : s.regWritten .a = true) (hm : modifier i.mnemonic s.a s = .ok r)
      (ht : t = ((r.2.setReg .a r.1).setNZ r.1).retire (baseCost s.cfg i.opcode))
  | jmp (o : Operand) (v : Resolved) (h : i.mnemonic = .jmp) (ho : i.operand = some o) (hv : resolve o s = .ok v)
      (ht : t = (v.state.setPc (v.value.setWidth 16)).retire (baseCost s.cfg i.opcode))
  | jsr (o : Operand) (v : Resolved) (u : State) (h : i.mnemonic = .jsr) (ho : i.operand = some o)
      (hv : resolve o s = .ok v) (hp : push16 (v.state.pc - s.cfg.jsrRetBias) v.state = .ok u)
      (ht : t = (u.setPc (v.value.setWidth 16)).retire (baseCost s.cfg i.opcode))
  | rts (w : Word × State) (h : i.mnemonic = .rts) (ho : i.operand = none) (hp : pull16 s = .ok w)
      (ht : t = (w.2.setPc (w.1 + s.cfg.jsrRetBias)).retire (baseCost s.cfg i.opcode))
  | branch (f : Flag) (on : Bool) (o : Operand) (v : Resolved) (h : (i.mnemonic, f, on) ∈ Mnemonic.branches)
      (ho : i.operand = some o) (hv : resolve o s = .ok v) (hf : s.flagWritten f = true)
      (ht : t = (v.state.setPc (branchTarget s.cfg v.state.pc (v.value.setWidth 8))).retire 3 ∨
        t = (v.state.setPc (branchTarget s.cfg v.state.pc (v.value.setWidth 8))).retire 4 ∨ t = v.state.retire 2)
  | brk (u : State) (h : i.mnemonic = .brk) (ho : i.operand = none) (hb : takeBreak (s.pc + 1) s = .ok u)
      (ht : t = u.retire (baseCost s.cfg i.opcode))
  | rti (u : State) (h : i.mnemonic = .rti) (ho : i.operand = none) (hb : returnFromBreak s = .ok u)
      (ht : t = u.retire (baseCost s.cfg i.opcode))
  | flag (f : Flag) (v : Bool)
      (h : (i.mnemonic, f, v) ∈ [(.clc, .c, false), (.sec, .c, true), (.cli, .i, false), (.sei, .i, true),
        (.cld, .d, false), (.sed, .d, true), ((.clv : Mnemonic), Flag.v, false)])
      (ho : i.operand = none) (ht : t = (s.setFlag f v).retire (baseCost s.cfg i.opcode))
  | nop (h : i.mnemonic = .nop) (ho : i.operand = none) (ht : t = s.retire (baseCost s.cfg i.opcode))

/-- The state an instruction that completes leaves. -/
theorem exec_completed {i : Instr} {s t : State} (h : exec i s = .next t) : Completed i s t := by
  cases exec_shape i s with
  | load r o hm ho he =>
    rw [he, outcome_next] at h
    simp only [Machine.load, Result.bind_ok, Result.pure_ok] at h
    obtain ⟨v, hv, rfl⟩ := h
    exact .load r o v hm ho hv rfl
  | store r o hm ho he =>
    rw [he, outcome_next] at h
    simp only [Machine.store, Result.bind_ok, Result.pure_ok] at h
    obtain ⟨v, hv, b, hb, rfl⟩ := h
    have e := (resolve_effect hv).core
    obtain ⟨h1, rfl⟩ := readReg_ok hb
    exact .store r o v hm ho hv (by rw [← e.regWritten]; exact h1) (by rw [e.reg])
  | transfer src dst hm ho he =>
    rw [he, outcome_next] at h
    simp only [Machine.transfer, Result.bind_ok, Result.pure_ok] at h
    obtain ⟨v, hv, rfl⟩ := h
    obtain ⟨h1, rfl⟩ := readReg_ok hv
    exact .transfer src dst hm ho h1 rfl
  | tsx hm ho he =>
    rw [he, outcome_next] at h
    cases h
    exact .tsx hm ho rfl
  | txs hm ho he =>
    rw [he, outcome_next] at h
    simp only [transferXToSp, Result.bind_ok, Result.pure_ok] at h
    obtain ⟨v, hv, rfl⟩ := h
    obtain ⟨h1, rfl⟩ := readReg_ok hv
    exact .txs hm ho h1 rfl
  | pha hm ho he =>
    rw [he, outcome_next] at h
    simp only [pushAcc, Result.bind_ok, Result.pure_ok] at h
    obtain ⟨v, hv, rfl⟩ := h
    obtain ⟨h1, rfl⟩ := readReg_ok hv
    exact .pha hm ho h1 rfl
  | php hm ho he =>
    rw [he, outcome_next] at h
    simp only [pushStatus, Result.bind_ok, Result.pure_ok] at h
    obtain ⟨v, hv, rfl⟩ := h
    exact .php v hm ho hv rfl
  | pla hm ho he =>
    rw [he, outcome_next] at h
    cases h
    exact .pla hm ho rfl
  | plp hm ho he =>
    rw [he, outcome_next] at h
    cases h
    exact .plp hm ho rfl
  | arith f o hm ho he =>
    rw [he, outcome_next] at h
    simp only [Machine.arith, Result.bind_ok] at h
    obtain ⟨v, hv, d, hd, h⟩ := h
    obtain ⟨h1, rfl⟩ := readFlag_ok hd
    have e := (operand_effect hv).core
    rw [show (readOperand o v).2.flag .d = s.flag .d from e.flag .d] at h
    rw [show (readOperand o v).2.flagWritten .d = s.flagWritten .d from e.flagWritten .d] at h1
    split at h
    · rename_i hdr
      simp only [Result.pure_ok] at h
      exact .decimal o v hm ho hv h1 hdr h.symm
    · rename_i hdr
      simp only [Result.bind_ok, Result.pure_ok] at h
      obtain ⟨a, ha, c, hc, rfl⟩ := h
      obtain ⟨h2, rfl⟩ := readReg_ok ha
      obtain ⟨h3, rfl⟩ := readFlag_ok hc
      exact .arith f o v hm ho hv h1 hdr ((e.regWritten .a).symm.trans h2) ((e.flagWritten .c).symm.trans h3)
        (by rw [e.reg, e.flag]; rfl)
  | logic f o hm ho he =>
    rw [he, outcome_next] at h
    simp only [Machine.logic, Result.bind_ok, Result.pure_ok] at h
    obtain ⟨v, hv, a, ha, rfl⟩ := h
    obtain ⟨h1, rfl⟩ := readReg_ok ha
    rw [operand_regWritten hv] at h1
    exact .logic f o v hm ho hv h1 (by rw [operand_reg hv]; rfl)
  | bit o hm ho he =>
    rw [he, outcome_next] at h
    simp only [bitTest, Result.bind_ok, Result.pure_ok] at h
    obtain ⟨v, hv, a, ha, rfl⟩ := h
    obtain ⟨h1, rfl⟩ := readReg_ok ha
    rw [operand_regWritten hv] at h1
    exact .bit o v hm ho hv h1 (by rw [operand_reg hv]; rfl)
  | compare r o hm ho he =>
    rw [he, outcome_next] at h
    simp only [compareReg, Result.bind_ok, Result.pure_ok] at h
    obtain ⟨v, hv, a, ha, rfl⟩ := h
    obtain ⟨h1, rfl⟩ := readReg_ok ha
    rw [operand_regWritten hv] at h1
    exact .compare r o v hm ho hv h1 (by rw [operand_reg hv])
  | modifyMem o hm ho he =>
    rw [he, outcome_next] at h
    simp only [Machine.modifyMem, Result.bind_ok, Result.pure_ok] at h
    obtain ⟨v, hv, r, hr, rfl⟩ := h
    exact .modifyMem o v r hm ho hv hr rfl
  | bump r f hm ho he =>
    rw [he, outcome_next] at h
    simp only [bumpReg, Result.bind_ok, Result.pure_ok] at h
    obtain ⟨v, hv, rfl⟩ := h
    obtain ⟨h1, rfl⟩ := readReg_ok hv
    exact .bump r f hm ho h1 rfl
  | modifyAcc hm ho he =>
    rw [he, outcome_next] at h
    simp only [Machine.modifyAcc, Result.bind_ok, Result.pure_ok] at h
    obtain ⟨m, ha, r, hr, rfl⟩ := h
    obtain ⟨h1, rfl⟩ := readReg_ok ha
    exact .modifyAcc r hm ho h1 hr rfl
  | jmp o hm ho he =>
    rw [he, outcome_next] at h
    simp only [jump, Result.bind_ok, Result.pure_ok] at h
    obtain ⟨v, hv, rfl⟩ := h
    exact .jmp o v hm ho hv rfl
  | jsr o hm ho he =>
    rw [he, outcome_next] at h
    simp only [jumpSubroutine, Result.bind_ok, Result.pure_ok] at h
    obtain ⟨v, hv, u, hu, rfl⟩ := h
    exact .jsr o v u hm ho hv hu rfl
  | rts hm ho he =>
    rw [he, outcome_next] at h
    simp only [returnSubroutine, Result.bind_ok, Result.pure_ok] at h
    obtain ⟨r, hr, rfl⟩ := h
    exact .rts r hm ho hr rfl
  | branch f on o hm ho he =>
    rw [he, outcome_next] at h
    simp only [Machine.branch, Result.bind_ok] at h
    obtain ⟨v, hv, b, hb, h⟩ := h
    obtain ⟨h1, rfl⟩ := readFlag_ok hb
    rw [(resolve_effect hv).core.flagWritten] at h1
    refine .branch f on o v hm ho hv h1 ?_
    split at h <;> simp only [Result.pure_ok] at h <;> subst h
    · split
      · exact .inr (.inl rfl)
      · exact .inl rfl
    · exact .inr (.inr rfl)
  | brk hm ho he =>
    rw [he, outcome_next] at h
    simp only [breakEntry, Result.bind_ok, Result.pure_ok] at h
    obtain ⟨u, hu, rfl⟩ := h
    exact .brk u hm ho hu rfl
  | rti hm ho he =>
    rw [he, outcome_next] at h
    simp only [returnInterrupt, Result.bind_ok, Result.pure_ok] at h
    obtain ⟨u, hu, rfl⟩ := h
    exact .rti u hm ho hu rfl
  | flag f v hm ho he =>
    rw [he, outcome_next] at h
    cases h
    exact .flag f v hm ho rfl
  | nop hm ho he =>
    rw [he, outcome_next] at h
    cases h
    exact .nop hm ho rfl

/-! ## The faults -/

theorem Result.bind_error {α β : Type} {x : Result α} {f : α → Result β} {e : Fault} :
    (x >>= f) = .error e ↔ x = .error e ∨ ∃ a, x = .ok a ∧ f a = .error e := by
  cases x with
  | ok a => simp
  | error e' => simp

@[simp] theorem Result.pure_ne_error {α : Type} (a : α) (e : Fault) : ((pure a : Result α) = .error e) ↔ False :=
  by
  constructor
  · intro h; cases h
  · exact False.elim

variable {s t u : State} {f : Fault} {i : Instr}

/-- A part of an instruction that faults in state `t`: the fault carries `t`, and it is one of the shorts at `as` past its
device, or an unwritten register or flag. -/
def PartFault (as : List BusAddr) (t : State) (f : Fault) : Prop :=
  (∃ a ∈ as, f = .shortPastDevice t ∧ t.bus.shortFits a = false) ∨
    (∃ r, f = .unwrittenRead (.reg r) t ∧ t.regWritten r = false) ∨
    ∃ g, f = .unwrittenRead (.flag g) t ∧ t.flagWritten g = false

/-- What an instruction's fault is (60_exceptions.md R310, R311): the machine it carries came from `s` by the parts that
ran, with A, X and Y as they were; the cause is one of the instruction's shorts past its device, or a register or flag
that `s` has unwritten, in which case no flag has changed either. -/
structure ExecFault (i : Instr) (s : State) (f : Fault) : Prop where
  evolves : Evolves s f.machine
  regs : keepsRegs [] s f.machine
  cause : (∃ m, ∃ a ∈ i.shorts s, f = .shortPastDevice m ∧ s.bus.shortFits a = false) ∨
    (∃ r m, f = .unwrittenRead (.reg r) m ∧ s.regWritten r = false ∧ keepsFlags [] s m) ∨
    ∃ g m, f = .unwrittenRead (.flag g) m ∧ s.flagWritten g = false ∧ keepsFlags [] s m

theorem Evolves.shortFits (h : Evolves s t) (a : BusAddr) : t.bus.shortFits a = s.bus.shortFits a :=
  Bus.shortFits_fixed h.machine.map h.machine.fixed a

/-- A fault of a part that runs before any flag is written. -/
theorem PartFault.exec {as : List BusAddr} (h : PartFault as t f) (he : Evolves s t) (hr : keepsRegs [] s t)
    (hf : keepsFlags [] s t) (ha : ∀ a ∈ as, a ∈ i.shorts s) : ExecFault i s f := by
  rcases h with ⟨a, hm, rfl, hs⟩ | ⟨r, rfl, hw⟩ | ⟨g, rfl, hw⟩
  · exact ⟨he, hr, .inl ⟨t, a, ha a hm, rfl, by rw [← he.shortFits]; exact hs⟩⟩
  · exact ⟨he, hr, .inr (.inl ⟨r, t, rfl, by rw [← (hr r (by simp)).2]; exact hw, hf⟩)⟩
  · exact ⟨he, hr, .inr (.inr ⟨g, t, rfl, by rw [← (hf g (by simp)).2]; exact hw, hf⟩)⟩

/-- A short past its device, whatever ran before it. -/
theorem ExecFault.short {a : BusAddr} (hx : f = .shortPastDevice t ∧ t.bus.shortFits a = false) (he : Evolves s t)
    (hr : keepsRegs [] s t) (ha : a ∈ i.shorts s) : ExecFault i s f := by
  obtain ⟨rfl, hs⟩ := hx
  exact ⟨he, hr, .inl ⟨t, a, ha, rfl, by rw [← he.shortFits]; exact hs⟩⟩

theorem sameRegs.keeps (h : sameRegs s t) : keepsRegs [] s t ∧ keepsFlags [] s t :=
  ⟨fun r _ => ⟨h.reg r, h.regWritten r⟩, fun g _ => ⟨h.flag g, h.flagWritten g⟩⟩

theorem readReg_error {r : Reg} (h : readReg r s = .error f) : f = .unwrittenRead (.reg r) s ∧ s.regWritten r = false := by
  unfold readReg at h
  split at h
  · cases h
  · cases h
    exact ⟨rfl, Bool.eq_false_iff.2 ‹_›⟩

theorem readFlag_error {g : Flag} (h : readFlag g s = .error f) :
    f = .unwrittenRead (.flag g) s ∧ s.flagWritten g = false := by
  unfold readFlag at h
  split at h
  · cases h
  · cases h
    exact ⟨rfl, Bool.eq_false_iff.2 ‹_›⟩

theorem readReg_fault {r : Reg} (h : readReg r s = .error f) : PartFault [] s f := .inr (.inl ⟨r, readReg_error h⟩)

theorem readFlag_fault {g : Flag} (h : readFlag g s = .error f) : PartFault [] s f := .inr (.inr ⟨g, readFlag_error h⟩)

/-- PHP and BRK name a bit the mask does not replace. -/
theorem pushedStatus_error (h : pushedStatus s = .error f) :
    ∃ g, f = .unwrittenRead (.flag g) s ∧ s.cfg.phpMask.getLsbD g.bit = false ∧ s.flagWritten g = false := by
  unfold pushedStatus at h
  split at h
  · rename_i g hg
    cases h
    have := List.find?_some hg
    simp only [Bool.and_eq_true, Bool.not_eq_true'] at this
    exact ⟨g, rfl, this⟩
  · cases h

theorem pushedStatus_fault (h : pushedStatus s = .error f) : PartFault [] s f := by
  obtain ⟨g, hg, _, hw⟩ := pushedStatus_error h
  exact .inr (.inr ⟨g, hg, hw⟩)

theorem memRead16_fault {a : BusAddr} (h : memRead16 a s = .error f) : PartFault [a] s f :=
  .inl ⟨a, by simp, memRead16_error h⟩

/-- What a resolver's fault is: the pointer's short past its device, with nothing done, or the index unwritten, with the
pointer of `(zp),Y` read already. -/
theorem resolve_error {o : Operand} (h : resolve o s = .error f) :
    (∃ p, o.pointer s = some p ∧ f = .shortPastDevice s ∧ s.bus.shortFits p = false) ∨
      ∃ r m, o.index = some r ∧ s.regWritten r = false ∧ f = .unwrittenRead (.reg r) m ∧
        ((∀ zz, o ≠ .indY zz) → m = s) ∧
        ∀ zz, o = .indY zz → ∃ w, memRead16 (zz.setWidth 17) s = .ok (w, m) := by
  have direct : ∀ {r : Reg}, readReg r s = .error f → o.index = some r → (∀ zz, o ≠ .indY zz) →
      ∃ r m, o.index = some r ∧ s.regWritten r = false ∧ f = .unwrittenRead (.reg r) m ∧
        ((∀ zz, o ≠ .indY zz) → m = s) ∧ ∀ zz, o = .indY zz → ∃ w, memRead16 (zz.setWidth 17) s = .ok (w, m) :=
    fun {r} hr hi hn => ⟨r, s, hi, (readReg_error hr).2, (readReg_error hr).1, fun _ => rfl, fun zz hz => absurd hz (hn zz)⟩
  cases o <;> simp only [resolve, readPtr, Result.bind_error, Result.pure_ne_error, reduceCtorEq, and_false, exists_false,
    or_false] at h
  case zpX => exact .inr (direct h rfl (by simp))
  case zpY => exact .inr (direct h rfl (by simp))
  case absX => exact .inr (direct h rfl (by simp))
  case absY => exact .inr (direct h rfl (by simp))
  case indX =>
    rcases h with h | ⟨x, hx, h⟩
    · exact .inr (direct h rfl (by simp))
    · obtain ⟨_, rfl⟩ := readReg_ok hx
      exact .inl ⟨_, rfl, memRead16_error h⟩
  case indY zz =>
    rcases h with h | ⟨p, hp, h⟩
    · exact .inl ⟨_, rfl, memRead16_error h⟩
    · have e := (memRead16_accessed hp).1.core
      exact .inr ⟨.y, p.2, rfl, by rw [← e.regWritten]; exact (readReg_error h).2, (readReg_error h).1,
        fun hn => absurd rfl (hn zz), fun zz' hz => by cases hz; exact ⟨p.1, hp⟩⟩
  case ind => exact .inl ⟨_, rfl, memRead16_error h⟩

theorem resolve_fault {o : Operand} (ho : i.operand = some o) (h : resolve o s = .error f) : ExecFault i s f := by
  rcases resolve_error h with ⟨p, hp, hf⟩ | ⟨r, m, _, hw, rfl, hm, hy⟩
  · refine .short hf (Evolves.refl s) (sameRegs.refl s).keeps.1 ?_
    simp [Instr.shorts, ho, hp]
  · by_cases hn : ∀ zz, o ≠ .indY zz
    · obtain rfl := hm hn
      exact PartFault.exec (as := []) (.inr (.inl ⟨r, rfl, hw⟩)) (Evolves.refl m) (sameRegs.refl m).keeps.1
        (sameRegs.refl m).keeps.2 (by simp)
    · simp only [not_forall, not_not] at hn
      obtain ⟨zz, hz⟩ := hn
      obtain ⟨w, hw'⟩ := hy zz hz
      have e := (memRead16_accessed hw').1.core
      exact PartFault.exec (as := []) (.inr (.inl ⟨r, rfl, by rw [e.regWritten]; exact hw⟩))
        ((Evolves.refl s).memRead16 (fun _ => setWidth_byte_lt _) hw') e.keeps.1 e.keeps.2 (by simp)

/-- A fault once the operand has been read. -/
theorem PartFault.operand {o : Operand} {v : Resolved} (hv : resolve o s = .ok v)
    (h : PartFault [] (readOperand o v).2 f) : ExecFault i s f :=
  h.exec ((Evolves.refl s).operand hv)
    (fun r _ => ⟨operand_reg hv r, operand_regWritten hv r⟩)
    (fun g _ => ⟨operand_flag hv g, operand_flagWritten hv g⟩) (by simp)

/-- A fault once the resolver has returned. -/
theorem PartFault.resolved {o : Operand} {v : Resolved} (hv : resolve o s = .ok v) (h : PartFault [] v.state f) :
    ExecFault i s f :=
  have e := (resolve_effect hv).core.keeps
  h.exec ((Evolves.refl s).resolve hv).1 e.1 e.2 (by simp)

/-- A fault before anything else has been done. -/
theorem PartFault.first (h : PartFault [] s f) : ExecFault i s f :=
  h.exec (Evolves.refl s) (sameRegs.refl s).keeps.1 (sameRegs.refl s).keeps.2 (by simp)

theorem modifier_fault {mn : Mnemonic} {m : Byte} (h : modifier mn m s = .error f) : PartFault [] s f := by
  unfold modifier at h
  split_ifs at h
  · cases h
  · cases h
  · cases h
  · cases h
  · simp only [rolShift, Result.bind_error, Result.pure_ne_error, and_false, exists_false, or_false] at h
    exact readFlag_fault h
  · simp only [rorShift, Result.bind_error, Result.pure_ne_error, and_false, exists_false, or_false] at h
    exact readFlag_fault h

/-- The faults of an instruction (60_exceptions.md R300, R310, R311). -/
theorem exec_fault (h : exec i s = .fault f) : ExecFault i s f := by
  cases exec_shape i s with
  | load r o _ ho he =>
    rw [he, outcome_fault] at h
    simp only [load, Result.bind_error, Result.pure_ne_error, and_false, exists_false, or_false] at h
    exact resolve_fault ho h
  | store r o _ ho he =>
    rw [he, outcome_fault] at h
    simp only [store, Result.bind_error, Result.pure_ne_error, and_false, exists_false, or_false] at h
    rcases h with h | ⟨v, hv, h⟩
    · exact resolve_fault ho h
    · exact (readReg_fault h).resolved hv
  | transfer src dst _ _ he =>
    rw [he, outcome_fault] at h
    simp only [transfer, Result.bind_error, Result.pure_ne_error, and_false, exists_false, or_false] at h
    exact (readReg_fault h).first
  | tsx _ _ he => rw [he, outcome_fault] at h; cases h
  | txs _ _ he =>
    rw [he, outcome_fault] at h
    simp only [transferXToSp, Result.bind_error, Result.pure_ne_error, and_false, exists_false, or_false] at h
    exact (readReg_fault h).first
  | pha _ _ he =>
    rw [he, outcome_fault] at h
    simp only [pushAcc, Result.bind_error, Result.pure_ne_error, and_false, exists_false, or_false] at h
    exact (readReg_fault h).first
  | php _ _ he =>
    rw [he, outcome_fault] at h
    simp only [pushStatus, Result.bind_error, Result.pure_ne_error, and_false, exists_false, or_false] at h
    exact (pushedStatus_fault h).first
  | pla _ _ he => rw [he, outcome_fault] at h; cases h
  | plp _ _ he => rw [he, outcome_fault] at h; cases h
  | arith g o _ ho he =>
    rw [he, outcome_fault] at h
    simp only [arith, Result.bind_error] at h
    rcases h with h | ⟨v, hv, h⟩
    · exact resolve_fault ho h
    rcases h with h | ⟨d, _, h⟩
    · exact (readFlag_fault h).operand hv
    · split at h
      · simp at h
      · simp only [Result.bind_error, Result.pure_ne_error, and_false, exists_false, or_false] at h
        rcases h with h | ⟨a, _, h⟩
        · exact (readReg_fault h).operand hv
        · exact (readFlag_fault h).operand hv
  | logic g o _ ho he =>
    rw [he, outcome_fault] at h
    simp only [logic, Result.bind_error, Result.pure_ne_error, and_false, exists_false, or_false] at h
    rcases h with h | ⟨v, hv, h⟩
    · exact resolve_fault ho h
    · exact (readReg_fault h).operand hv
  | bit o _ ho he =>
    rw [he, outcome_fault] at h
    simp only [bitTest, Result.bind_error, Result.pure_ne_error, and_false, exists_false, or_false] at h
    rcases h with h | ⟨v, hv, h⟩
    · exact resolve_fault ho h
    · exact (readReg_fault h).operand hv
  | compare r o _ ho he =>
    rw [he, outcome_fault] at h
    simp only [compareReg, Result.bind_error, Result.pure_ne_error, and_false, exists_false, or_false] at h
    rcases h with h | ⟨v, hv, h⟩
    · exact resolve_fault ho h
    · exact (readReg_fault h).operand hv
  | modifyMem o _ ho he =>
    rw [he, outcome_fault] at h
    simp only [modifyMem, Result.bind_error, Result.pure_ne_error, and_false, exists_false, or_false] at h
    rcases h with h | ⟨v, hv, h⟩
    · exact resolve_fault ho h
    · have hs := (Evolves.refl s).resolve hv
      have hc : v.state.cfg = s.cfg := (resolve_effect hv).core.cfg
      have e := ((resolve_effect hv).core.trans (memRead8_effect v.value v.state).core).keeps
      exact (modifier_fault h).exec (hs.1.memRead8 fun hw => hs.2 (by rw [← hc]; exact hw)) e.1 e.2 (by simp)
  | bump r g _ _ he =>
    rw [he, outcome_fault] at h
    simp only [bumpReg, Result.bind_error, Result.pure_ne_error, and_false, exists_false, or_false] at h
    exact (readReg_fault h).first
  | modifyAcc _ _ he =>
    rw [he, outcome_fault] at h
    simp only [modifyAcc, Result.bind_error, Result.pure_ne_error, and_false, exists_false, or_false] at h
    rcases h with h | ⟨a, _, h⟩
    · exact (readReg_fault h).first
    · exact (modifier_fault h).first
  | jmp o _ ho he =>
    rw [he, outcome_fault] at h
    simp only [jump, Result.bind_error, Result.pure_ne_error, and_false, exists_false, or_false] at h
    exact resolve_fault ho h
  | jsr o hm ho he =>
    rw [he, outcome_fault] at h
    simp only [jumpSubroutine, push16, Result.bind_error, Result.pure_ne_error, and_false, exists_false, or_false] at h
    rcases h with h | ⟨v, hv, h⟩
    · exact resolve_fault ho h
    · have e := (resolve_effect hv).core
      refine .short (memWrite16_error h) (((Evolves.refl s).resolve hv).1.setSp _) e.keeps.1 ?_
      simp [Instr.shorts, hm, e.cfg, e.sp]
  | rts hm ho he =>
    rw [he, outcome_fault] at h
    simp only [returnSubroutine, pull16, Result.bind_error, Result.pure_ne_error, and_false, exists_false, or_false] at h
    exact .short (memRead16_error h) (Evolves.refl s) (sameRegs.refl s).keeps.1 (by simp [Instr.shorts, hm, ho])
  | branch g on o _ ho he =>
    rw [he, outcome_fault] at h
    simp only [branch, Result.bind_error] at h
    rcases h with h | ⟨v, hv, h⟩
    · exact resolve_fault ho h
    rcases h with h | ⟨b, _, h⟩
    · exact (readFlag_fault h).resolved hv
    · split at h <;> simp at h
  | brk hm ho he =>
    rw [he, outcome_fault] at h
    simp only [breakEntry, takeBreak, Result.bind_error, Result.pure_ne_error, and_false, exists_false, or_false] at h
    rcases h with h | ⟨st, _, h⟩
    · exact (pushedStatus_fault h).first
    rcases h with h | ⟨s1, h1, h⟩
    · exact .short (memWrite16_error h) ((Evolves.refl s).setSp _) (sameRegs.refl s).keeps.1
        (by simp [Instr.shorts, hm, ho])
    · have v1 := (Evolves.refl s).push16 h1
      have e := (memWrite16_accessed h1).core
      have e2 := (memWrite8_accessed (stackAddr s1.cfg (s1.sp - 1)) st (s1.setSp (s1.sp - 1))).core
      refine .short (memRead16_error h) ((v1.push8 st).setFlag .i true) (fun r _ => ⟨?_, ?_⟩) ?_
      · simp only [State.setFlag_reg]; exact (e2.reg r).trans (e.reg r)
      · simp only [State.setFlag_regWritten]; exact (e2.regWritten r).trans (e.regWritten r)
      · have hc : (push8 st s1).cfg = s.cfg := e2.cfg.trans e.cfg
        simp [Instr.shorts, hm, ho, hc]
  | rti hm ho he =>
    rw [he, outcome_fault] at h
    simp only [returnInterrupt, returnFromBreak, pull16, Result.bind_error, Result.pure_ne_error, and_false, exists_false,
      or_false] at h
    have e := (memRead8_effect (stackAddr s.cfg s.sp) s).core
    refine .short (memRead16_error h) ((((Evolves.refl s).memRead8 fun _ => stackAddr_lt _ _).setP _).setSp _)
      (fun r _ => ⟨?_, ?_⟩) ?_
    · exact e.reg r
    · exact e.regWritten r
    · simp [Instr.shorts, hm, ho, e.cfg]
  | flag g v _ _ he => rw [he, outcome_fault] at h; cases h
  | nop _ _ he => rw [he, outcome_fault] at h; cases h

/-- No instruction is refused. -/
theorem exec_ne_refused (i : Instr) (s : State) (r : Refusal) : exec i s ≠ .refused r := by
  cases exec_shape i s <;> rename_i he <;> rw [he] <;> exact outcome_ne_refused _ _

end Sys2Proof.Machine
end

