-- ==== Sys2Proof/Laws/Tick.lean ====
section
/-! SUPPORT. The parts of a tick: the bus latch and the device hooks after the CPU (20_memory.md R71 to R74), and the fetch
before the instruction (40_core_cycle.md R140). -/

namespace Sys2Proof.Machine

/-- Two states that differ in the bus alone. -/
def busOnly (s t : State) : Prop := t = { s with bus := t.bus }

theorem busOnly.refl (s : State) : busOnly s s := rfl

theorem busOnly.trans {s t u : State} (h : busOnly s t) (h' : busOnly t u) : busOnly s u := by
  unfold busOnly at *
  rw [h', h]

theorem busOnly.cfg {s t : State} (h : busOnly s t) : t.cfg = s.cfg := by
  rw [show t = { s with bus := t.bus } from h]
theorem busOnly.a {s t : State} (h : busOnly s t) : t.a = s.a := by
  rw [show t = { s with bus := t.bus } from h]
theorem busOnly.x {s t : State} (h : busOnly s t) : t.x = s.x := by
  rw [show t = { s with bus := t.bus } from h]
theorem busOnly.y {s t : State} (h : busOnly s t) : t.y = s.y := by
  rw [show t = { s with bus := t.bus } from h]
theorem busOnly.sp {s t : State} (h : busOnly s t) : t.sp = s.sp := by
  rw [show t = { s with bus := t.bus } from h]
theorem busOnly.pc {s t : State} (h : busOnly s t) : t.pc = s.pc := by
  rw [show t = { s with bus := t.bus } from h]
theorem busOnly.p {s t : State} (h : busOnly s t) : t.p = s.p := by
  rw [show t = { s with bus := t.bus } from h]
theorem busOnly.written {s t : State} (h : busOnly s t) : t.written = s.written := by
  rw [show t = { s with bus := t.bus } from h]
theorem busOnly.pending {s t : State} (h : busOnly s t) : t.pending = s.pending := by
  rw [show t = { s with bus := t.bus } from h]
theorem busOnly.opcode {s t : State} (h : busOnly s t) : t.opcode = s.opcode := by
  rw [show t = { s with bus := t.bus } from h]
theorem busOnly.addrLatch {s t : State} (h : busOnly s t) : t.addrLatch = s.addrLatch := by
  rw [show t = { s with bus := t.bus } from h]
theorem busOnly.dataLatch {s t : State} (h : busOnly s t) : t.dataLatch = s.dataLatch := by
  rw [show t = { s with bus := t.bus } from h]
theorem busOnly.cyclesTotal {s t : State} (h : busOnly s t) : t.cyclesTotal = s.cyclesTotal := by
  rw [show t = { s with bus := t.bus } from h]
theorem busOnly.unknownSeen {s t : State} (h : busOnly s t) : t.unknownSeen = s.unknownSeen := by
  rw [show t = { s with bus := t.bus } from h]
theorem busOnly.draws {s t : State} (h : busOnly s t) : t.draws = s.draws := by
  rw [show t = { s with bus := t.bus } from h]

/-! ## The device hooks -/

theorem clockBody_fixed (la : BusAddr) (ld : Word) (dev : Device) :
    Device.fixedPart { dev with body := clockBody la ld dev.body } = dev.fixedPart := by
  obtain ⟨base, size, body⟩ := dev
  cases body <;> rfl

theorem clockBody_storage (la : BusAddr) (ld : Word) (dev : Device) :
    Device.storagePart { dev with body := clockBody la ld dev.body } = dev.storagePart := by
  obtain ⟨base, size, body⟩ := dev
  cases body <;> rfl

theorem clockBody_wf (la : BusAddr) (ld : Word) {dev : Device} (h : dev.wf = true) :
    Device.wf { dev with body := clockBody la ld dev.body } = true := by
  obtain ⟨base, size, body⟩ := dev
  cases body <;> exact h

/-- The hooks of one device change its own storage and nothing else (20_memory.md R73, R74). -/
theorem clockDevice_touched (s : State) (d : Nat) :
    Touched s (clockDevice s d) ∧ (clockDevice s d).bus.storagePart = s.bus.storagePart ∧
      busOnly s (clockDevice s d) := by
  unfold clockDevice
  split
  · exact ⟨Touched.refl s, rfl, rfl⟩
  · exact ⟨touched_setBody ‹_› (clockBody_fixed _ _ _) fun h => clockBody_wf _ _ h,
      storage_setBody ‹_› (clockBody_storage _ _ _), rfl⟩

theorem Touched.trans {s t u : State} (h : Touched s t) (h' : Touched t u) : Touched s u :=
  ⟨h.core.trans h'.core, h'.latch.trans h.latch, h'.map.trans h.map, h'.order.trans h.order,
    h'.lastAddress.trans h.lastAddress, h'.lastData.trans h.lastData, h'.log.trans h.log, h'.seq.trans h.seq,
    h'.fixed.trans h.fixed, fun hw => h'.wf (h.wf hw)⟩

theorem foldl_clockDevice (l : List Nat) (s : State) :
    Touched s (l.foldl clockDevice s) ∧ (l.foldl clockDevice s).bus.storagePart = s.bus.storagePart ∧
      busOnly s (l.foldl clockDevice s) := by
  induction l generalizing s with
  | nil => exact ⟨Touched.refl s, rfl, rfl⟩
  | cons d l ih =>
    have h := clockDevice_touched s d
    have h' := ih (clockDevice s d)
    exact ⟨h.1.trans h'.1, h'.2.1.trans h.2.1, h.2.2.trans h'.2.2⟩

/-- Every device's hooks together. -/
theorem clockDevices_touched (s : State) :
    Touched s (clockDevices s) ∧ (clockDevices s).bus.storagePart = s.bus.storagePart ∧ busOnly s (clockDevices s) :=
  foldl_clockDevice _ s

theorem clockDevice_devs {s : State} {d e : Nat} {dev : Device} (h : s.bus.devs[e]? = some dev) :
    (clockDevice s d).bus.devs[e]? = some (if e = d then
      { dev with body := clockBody s.bus.lastAddress s.bus.lastData dev.body } else dev) := by
  unfold clockDevice
  by_cases hd : e = d
  · subst hd
    rw [h]
    simp only [State.setBody_bus, Bus.setBody_devs _ h, List.getElem?_set, if_true]
    have := (List.getElem?_eq_some_iff.1 h).1
    simp [this]
  · split
    · simp [h, hd]
    · rename_i dev' hdev'
      simp only [State.setBody_bus, Bus.setBody_devs _ hdev', List.getElem?_set, Ne.symm hd, hd, if_false]
      exact h

/-- Clocking a list of distinct devices clocks each of them once. -/
theorem foldl_clockDevice_devs {l : List Nat} (hl : l.Nodup) {s : State} {e : Nat} {dev : Device}
    (h : s.bus.devs[e]? = some dev) :
    (l.foldl clockDevice s).bus.devs[e]? = some (if e ∈ l then
      { dev with body := clockBody s.bus.lastAddress s.bus.lastData dev.body } else dev) := by
  induction l generalizing s dev with
  | nil => simp [h]
  | cons d l ih =>
    rw [List.nodup_cons] at hl
    have ht := (clockDevice_touched s d).1
    rw [List.foldl_cons, ih hl.2 (clockDevice_devs h), ht.lastAddress, ht.lastData]
    by_cases hd : e = d
    · subst hd
      simp [hl.1]
    · simp [hd]

/-! ## The bus latch -/

theorem busClock_busOnly (s : State) : busOnly s (busClock s) := by
  unfold busClock
  split <;> rfl

theorem busClock_bus (s : State) :
    (busClock s).bus.devs = s.bus.devs ∧ (busClock s).bus.map = s.bus.map ∧ (busClock s).bus.order = s.bus.order ∧
      (busClock s).bus.seq = s.bus.seq ∧ (busClock s).bus.log = s.bus.log.dropLast := by
  unfold busClock
  split
  · rename_i h
    rw [List.getLast?_eq_none_iff] at h
    simp [h]
  · simp

/-- The latch holds what it held, or the address and data of a record of the log (20_memory.md R71, R72). -/
theorem busClock_latch (s : State) :
    ((busClock s).bus.lastAddress = s.bus.lastAddress ∧ (busClock s).bus.lastData = s.bus.lastData) ∨
      ∃ r ∈ s.bus.log, (busClock s).bus.lastAddress = r.address ∧ (busClock s).bus.lastData = r.data := by
  unfold busClock
  split
  · exact .inl ⟨rfl, rfl⟩
  · rename_i r h
    exact .inr ⟨r, List.mem_of_getLast? h, rfl, rfl⟩

/-- The part of a tick after the CPU. -/
theorem tickTail_effect (s : State) :
    busOnly s (tickTail s) ∧ (tickTail s).bus.map = s.bus.map ∧ (tickTail s).bus.order = s.bus.order ∧
      (tickTail s).bus.seq = s.bus.seq ∧ (tickTail s).bus.log = s.bus.log.dropLast ∧
      (tickTail s).bus.storagePart = s.bus.storagePart ∧ (tickTail s).bus.fixedPart = s.bus.fixedPart ∧
      (s.bus.devs.all Device.wf = true → (tickTail s).bus.devs.all Device.wf = true) ∧
      (tickTail s).bus.lastAddress = (busClock s).bus.lastAddress ∧
      (tickTail s).bus.lastData = (busClock s).bus.lastData := by
  have hb := busClock_bus s
  have hc := clockDevices_touched (busClock s)
  refine ⟨(busClock_busOnly s).trans hc.2.2, hc.1.map.trans hb.2.1, hc.1.order.trans hb.2.2.1,
    hc.1.seq.trans hb.2.2.2.1, hc.1.log.trans hb.2.2.2.2, hc.2.1.trans ?_, hc.1.fixed.trans ?_, fun h => hc.1.wf ?_,
    hc.1.lastAddress, hc.1.lastData⟩
  · simp [Bus.storagePart, hb.1]
  · simp [Bus.fixedPart, hb.1]
  · rw [hb.1]; exact h

/-! ## The fetch -/

/-- The state in which an instruction's operand bytes are fetched: the opcode read and latched. -/
def opcodeFetched (s : State) : State := (fetch8 (busReset s)).2.setOpcode (fetch8 (busReset s)).1

theorem Evolves.fetch8 {s t : State} (h : Evolves s t) : Evolves s (fetch8 t).2 :=
  (h.memRead8 fun _ => setWidth_word_lt _).setPc _

theorem Evolves.fetch16 {s t : State} (h : Evolves s t) {r : Word × State} (hr : fetch16 t = .ok r) :
    Evolves s r.2 := by
  simp only [Machine.fetch16, Result.bind_ok, Result.pure_ok] at hr
  obtain ⟨a, ha, rfl⟩ := hr
  exact (h.memRead16 (fun _ => setWidth_word_lt _) ha).setPc _

theorem Evolves.fetchOperand {s t u : State} (h : Evolves s t) {b : Build} {i : Instr}
    (hf : fetchOperand b t = .ok (.instr i u)) : Evolves s u := by
  cases b with
  | none j => cases hf; exact h
  | byte f => cases hf; exact h.fetch8
  | word f =>
    simp only [Machine.fetchOperand, Result.bind_ok, Result.pure_ok] at hf
    obtain ⟨r, hr, he⟩ := hf
    cases he
    exact h.fetch16 hr

theorem fetchOperand_not_unknown {b : Build} {t u : State} {opc : Byte} :
    fetchOperand b t ≠ .ok (.unknown opc u) := by
  cases b with
  | none j => simp [fetchOperand]
  | byte f => simp [fetchOperand]
  | word f =>
    intro h
    simp only [fetchOperand, Result.bind_ok, Result.pure_ok] at h
    obtain ⟨_, _, h⟩ := h
    cases h

/-- What a CPU clock that completes did: a Busy tick, an unknown opcode's no-op, or an instruction (40_core_cycle.md R140,
R141, R146). -/
theorem cpuClock_next {s t : State} (h : cpuClock s = .next t) :
    (0 < s.pending ∧ t = busyTick s) ∨
      (s.pending = 0 ∧ descriptor s.cfg (fetch8 (busReset s)).1 = none ∧ s.cfg.unknownOpcode = .nop ∧
        t = { opcodeFetched s with cyclesTotal := some 0, unknownSeen := true }) ∨
      (s.pending = 0 ∧ ∃ row, descriptor s.cfg (fetch8 (busReset s)).1 = some row ∧
        ∃ i u, fetchOperand row.build (opcodeFetched s) = .ok (.instr i u) ∧ Evolves (opcodeFetched s) u ∧
          exec i u = .next t) := by
  have hcfg : (opcodeFetched s).cfg = s.cfg := (memRead8_effect _ (busReset s)).core.cfg
  unfold cpuClock at h
  split at h
  · rename_i hp
    unfold fetchInstr at h
    cases hd : descriptor s.cfg (fetch8 (busReset s)).1 with
    | none =>
      simp only [hd] at h
      rw [outcome_next] at h
      unfold unknownOpcode at h
      split at h
      · rename_i hn
        cases h
        exact .inr (.inl ⟨hp, rfl, (congrArg Config.unknownOpcode hcfg).symm.trans hn, rfl⟩)
      · cases h
    | some row =>
      simp only [hd] at h
      split at h
      · cases h
      · rename_i hf; exact absurd hf fetchOperand_not_unknown
      · rename_i i u hf
        exact .inr (.inr ⟨hp, row, rfl, i, u, hf, (Evolves.refl _).fetchOperand hf, h⟩)
  · rename_i hp
    cases h
    exact .inl ⟨Nat.pos_of_ne_zero hp, rfl⟩

/-- What the opcode fetch does to the state a tick starts in. -/
theorem opcodeFetched_effect (s : State) :
    Evolves ((busReset s).setOpcode (fetch8 (busReset s)).1) (opcodeFetched s) ∧
      (opcodeFetched s).bus.storagePart = s.bus.storagePart ∧ (opcodeFetched s).written = s.written ∧
      (opcodeFetched s).pc = s.pc + 1 ∧ (opcodeFetched s).addrLatch = s.addrLatch := by
  have ha := memRead8_accessed (pcAddr (busReset s)) (busReset s)
  refine ⟨?_, memRead8_storage _ (busReset s), ha.core.written, rfl, ha.latch⟩
  have hk : Accessed .read (pcAddr (busReset s)) ((memRead8 (pcAddr (busReset s)) (busReset s)).1.setWidth 16)
      ((busReset s).setOpcode (fetch8 (busReset s)).1)
      ((memRead8 (pcAddr (busReset s)) (busReset s)).2.setOpcode (fetch8 (busReset s)).1) := by
    refine ⟨?_, ha.latch, ha.map, ha.order, ha.lastAddress, ha.lastData, ha.log, ha.seq, ha.fixed, ha.wf,
      ha.others⟩
    have := ha.core
    unfold sameRegs at this ⊢
    exact congrArg (fun x : State => x.setOpcode (fetch8 (busReset s)).1) this
  exact ((Evolves.refl _).accessed hk fun _ => setWidth_word_lt _).setPc (s.pc + 1)

/-- What a fetched instruction's state keeps of the state the tick started in. -/
theorem fetchOperand_keeps {s t u : State} {b : Build} {i : Instr} (h : fetchOperand b t = .ok (.instr i u))
    (hr : keepsRegs [] s t) (hf : keepsFlags [] s t) : keepsRegs [] s u ∧ keepsFlags [] s u := by
  have key : ∀ {a : BusAddr} {w : Word} {x : State}, Accessed .read a w t x → ∀ pc,
      keepsRegs [] s (x.setPc pc) ∧ keepsFlags [] s (x.setPc pc) := fun e pc =>
    ⟨fun r hn => ⟨(e.core.reg r).trans (hr r hn).1, (e.core.regWritten r).trans (hr r hn).2⟩,
      fun g hn => ⟨(e.core.flag g).trans (hf g hn).1, (e.core.flagWritten g).trans (hf g hn).2⟩⟩
  cases b with
  | none j => cases h; exact ⟨hr, hf⟩
  | byte f => cases h; exact key (memRead8_accessed _ t) _
  | word f =>
    simp only [fetchOperand, fetch16, Result.bind_ok, Result.pure_ok] at h
    obtain ⟨r, ⟨a, ha, rfl⟩, he⟩ := h
    cases he
    exact key (memRead16_accessed ha).1 _

theorem opcodeFetched_keeps (s : State) : keepsRegs [] s (opcodeFetched s) ∧ keepsFlags [] s (opcodeFetched s) :=
  have e := (memRead8_accessed (pcAddr (busReset s)) (busReset s)).core
  ⟨fun r _ => ⟨e.reg r, e.regWritten r⟩, fun g _ => ⟨e.flag g, e.flagWritten g⟩⟩

theorem opcodeFetched_log (s : State) :
    (opcodeFetched s).bus.log = [⟨.read, pcAddr s, (fetch8 (busReset s)).1.setWidth 16, 0⟩] :=
  (memRead8_accessed (pcAddr (busReset s)) (busReset s)).log

/-- What a CPU clock that faults met: an operand word across the end of its device, an unknown opcode under the strict
policy, or the fault of the instruction fetched (40_core_cycle.md R140, R146; 60_exceptions.md R311). -/
theorem cpuClock_fault {s : State} {f : Fault} (h : cpuClock s = .fault f) : s.pending = 0 ∧
    ((f = .shortPastDevice (opcodeFetched s) ∧ instrLength (fetch8 (busReset s)).1 = 3 ∧
        s.bus.shortFits ((s.pc + 1).setWidth 17) = false) ∨
      (f = .unknownOpcode (fetch8 (busReset s)).1 s.pc { opcodeFetched s with unknownSeen := true } ∧
        s.cfg.unknownOpcode = .fault ∧ descriptor s.cfg (fetch8 (busReset s)).1 = none) ∨
      ∃ i u, fetchInstr s = .ok (.instr i u) ∧ Evolves (opcodeFetched s) u ∧ keepsRegs [] s u ∧ keepsFlags [] s u ∧
        exec i u = .fault f) := by
  have ho := opcodeFetched_effect s
  have hk := opcodeFetched_keeps s
  unfold cpuClock at h
  split at h
  · refine ⟨‹_›, ?_⟩
    cases hd : descriptor s.cfg (fetch8 (busReset s)).1 with
    | none =>
      have : fetchInstr s = .ok (.unknown (fetch8 (busReset s)).1 (opcodeFetched s)) := by
        unfold fetchInstr; simp only [hd]; rfl
      rw [this] at h
      simp only [outcome_fault] at h
      unfold unknownOpcode at h
      split at h
      · cases h
      · rename_i hu
        cases h
        rw [ho.1.machine.cfg] at hu
        have hpc : (opcodeFetched s).pc - 1 = s.pc := by rw [ho.2.2.2.1]; simp
        exact .inr (.inl ⟨by rw [hpc], hu, rfl⟩)
    | some row =>
      have hfi : fetchInstr s = fetchOperand row.build (opcodeFetched s) := by
        unfold fetchInstr; simp only [hd]; rfl
      rw [hfi] at h
      split at h
      · rename_i e hf
        cases h
        refine .inl ?_
        cases hb : row.build with
        | none j => rw [hb] at hf; cases hf
        | byte g => rw [hb] at hf; cases hf
        | word g =>
          rw [hb] at hf
          simp only [fetchOperand, fetch16, Result.bind_error, Result.pure_ne_error, and_false, exists_false,
            or_false] at hf
          obtain ⟨h1, h2⟩ := memRead16_error hf
          refine ⟨h1, ?_, ?_⟩
          · have hrow : rowOf? (fetch8 (busReset s)).1 = some row := by
              unfold descriptor at hd
              split at hd
              · cases hd
              · exact hd
            have he := (rowOf?_some hrow).1
            unfold Row.Encodes at he
            rw [hb] at he
            simp [instrLength, hrow, he.2]
          · rw [← h2, pcAddr, ho.2.2.2.1]
            exact (Bus.shortFits_fixed ho.1.machine.map ho.1.machine.fixed _).symm
      · rename_i hf; exact absurd hf fetchOperand_not_unknown
      · rename_i i u hf
        have hu := fetchOperand_keeps hf hk.1 hk.2
        exact .inr (.inr ⟨i, u, hfi.trans hf, (Evolves.refl _).fetchOperand hf, hu.1, hu.2, h⟩)
  · cases h

theorem step_fault {s : State} {f : Fault} (h : step s = .fault f) : cpuClock s = .fault f := by
  unfold step at h
  split at h
  · cases h
  · cases h; assumption
  · cases h

theorem step_next {s t : State} (h : step s = .next t) : ∃ u, cpuClock s = .next u ∧ t = tickTail u := by
  unfold step at h
  split at h
  · cases h; exact ⟨_, ‹_›, rfl⟩
  · cases h
  · cases h

end Sys2Proof.Machine
end

