-- ==== Sys2Proof/Tests/Slice0.lean ====
section
/-! SUPPORT. Tests of the model: well-formedness, decoding, the vectors of 95_test_vectors.md, ticks, faults, assembly, and
a witness for the hypotheses of each obligation that has some. Expected results come from the spec. -/

namespace Sys2Proof.Tests

open Sys2Proof Sys2Proof.Machine

/-- A, X, Y, P and SP. -/
structure Regs where
  a : Byte
  x : Byte
  y : Byte
  p : Byte
  sp : Byte
  deriving DecidableEq, Repr

/-- The harness of 95_test_vectors.md section 2: the platform of `State.reset`, the given bytes and cells in RAM, the
BRK vector 0x9000 in ROM, the registers as given, and PC at the instruction. -/
def harness (cfg : Config) (start : Word) (bytes : List Byte) (cells : List (Nat × Byte)) (a x y p sp : Byte) :
    State :=
  let code := bytes.zipIdx.map fun v => (start.toNat + v.2, v.1)
  let ram := (code ++ cells).foldl (fun m c => Memory.set m c.1 c.2) []
  { State.reset with
    cfg := cfg, a := a, x := x, y := y, p := p, sp := sp, pc := start
    bus := { State.reset.bus with
      devs := [⟨0x0000, 0x8000, .ram ram⟩, ⟨0x8000, 0x8000, .rom [(0x7FFF, 0x90)]⟩] } }

/-- Whether a step's next state has the registers, PC, pending cost and bytes a vector's end column gives. -/
def endsIn (o : Host.Outcome State Fault Refusal) (r : Regs) (pc : Word) (c : Nat) (cells : List (BusAddr × Byte)) :
    Bool :=
  match o with
  | .next s => decide (r = ⟨s.a, s.x, s.y, s.p, s.sp⟩) && decide (s.pc = pc) && decide (s.pending = c) &&
      cells.all fun v => decide (s.peek v.1 = some v.2)
  | .fault _ => false
  | .refused _ => false

/-- Whether an outcome is `ShortPastDevice`, with a machine of which `p` holds. -/
def faultsShort (o : Host.Outcome State Fault Refusal) (p : State → Bool) : Bool :=
  match o with
  | .next _ | .refused _ | .fault (.unwrittenRead _ _) | .fault (.unknownOpcode _ _ _) => false
  | .fault (.shortPastDevice m) => p m

/-- Whether an outcome is `UnwrittenRead` of `r`, with a machine of which `p` holds. -/
def faultsUnwritten (o : Host.Outcome State Fault Refusal) (r : RegName) (p : State → Bool) : Bool :=
  match o with
  | .next _ | .refused _ | .fault (.shortPastDevice _) | .fault (.unknownOpcode _ _ _) => false
  | .fault (.unwrittenRead q m) => decide (q = r) && p m

/-- Whether an outcome is `UnknownOpcode` of `opc` at `a`, with a machine of which `p` holds. -/
def faultsUnknown (o : Host.Outcome State Fault Refusal) (opc : Byte) (a : Word) (p : State → Bool) : Bool :=
  match o with
  | .next _ | .refused _ | .fault (.shortPastDevice _) | .fault (.unwrittenRead _ _) => false
  | .fault (.unknownOpcode b w m) => decide (b = opc) && decide (w = a) && p m

/-! ## The vectors of 95_test_vectors.md, at most two for each mnemonic -/

/-- V10. -/
theorem test_v10_lda_20_x :
    endsIn (step (harness Config.taken 0x0200 [0xA1, 0x20]
      [(0x0000, 0x00), (0x0001, 0x03), (0x0300, 0x66)] 0x00 0xE0 0x00 0x00 0xFF))
      ⟨0x66, 0xE0, 0x00, 0x00, 0xFF⟩ 0x0202 6 [] = true := by
  decide

/-- V11. -/
theorem test_v11_lda_ff_y :
    endsIn (step (harness Config.taken 0x0200 [0xB1, 0xFF]
      [(0x00FF, 0x00), (0x0100, 0x03), (0x0301, 0x77)] 0x00 0x00 0x01 0x00 0xFF))
      ⟨0x77, 0x00, 0x01, 0x00, 0xFF⟩ 0x0202 5 [] = true := by
  decide

/-- V14. -/
theorem test_v14_ldx_0f_y :
    endsIn (step (harness Config.taken 0x0200 [0xB6, 0x0F] [(0x0014, 0x00)] 0x00 0x00 0x05 0x00 0xFF))
      ⟨0x00, 0x00, 0x05, 0x02, 0xFF⟩ 0x0202 4 [] = true := by
  decide

/-- V15. -/
theorem test_v15_ldx_0300_y :
    endsIn (step (harness Config.taken 0x0200 [0xBE, 0x00, 0x03] [(0x0302, 0x80)] 0x00 0x00 0x02 0x00 0xFF))
      ⟨0x00, 0x80, 0x02, 0x80, 0xFF⟩ 0x0203 4 [] = true := by
  decide

/-- V17. -/
theorem test_v17_ldy_10_x :
    endsIn (step (harness Config.taken 0x0200 [0xB4, 0x10] [(0x0011, 0x00)] 0x00 0x01 0x00 0x00 0xFF))
      ⟨0x00, 0x01, 0x00, 0x02, 0xFF⟩ 0x0202 4 [] = true := by
  decide

/-- V18. -/
theorem test_v18_ldy_0300_x :
    endsIn (step (harness Config.taken 0x0200 [0xBC, 0x00, 0x03] [(0x0303, 0x90)] 0x00 0x03 0x00 0x00 0xFF))
      ⟨0x00, 0x03, 0x90, 0x80, 0xFF⟩ 0x0203 4 [] = true := by
  decide

/-- V21. -/
theorem test_v21_sta_00fe_x :
    endsIn (step (harness Config.taken 0x0200 [0x9D, 0xFE, 0x00] [] 0x03 0x01 0x00 0x00 0xFF))
      ⟨0x03, 0x01, 0x00, 0x00, 0xFF⟩ 0x0203 5 [(0x00FF, 0x03)] = true := by
  decide

/-- V23. -/
theorem test_v23_sta_10_y :
    endsIn (step (harness Config.taken 0x0200 [0x91, 0x10] [(0x0010, 0xF8), (0x0011, 0x02)] 0xAB 0x00 0x10 0x00 0xFF))
      ⟨0xAB, 0x00, 0x10, 0x00, 0xFF⟩ 0x0202 6 [(0x0308, 0xAB)] = true := by
  decide

/-- V27. -/
theorem test_v27_stx_20_y :
    endsIn (step (harness Config.taken 0x0200 [0x96, 0x20] [] 0x00 0x23 0x01 0x00 0xFF))
      ⟨0x00, 0x23, 0x01, 0x00, 0xFF⟩ 0x0202 4 [(0x0021, 0x23)] = true := by
  decide

/-- V29. -/
theorem test_v29_sty_20_x :
    endsIn (step (harness Config.taken 0x0200 [0x94, 0x20] [] 0x00 0xF0 0x99 0x00 0xFF))
      ⟨0x00, 0xF0, 0x99, 0x00, 0xFF⟩ 0x0202 4 [(0x0010, 0x99)] = true := by
  decide

/-- V32. -/
theorem test_v32_tax :
    endsIn (step (harness Config.taken 0x0200 [0xAA] [] 0x00 0x55 0x00 0x00 0xFF))
      ⟨0x00, 0x00, 0x00, 0x02, 0xFF⟩ 0x0201 2 [] = true := by
  decide

/-- V33. -/
theorem test_v33_tay :
    endsIn (step (harness Config.taken 0x0200 [0xA8] [] 0x80 0x00 0x00 0x00 0xFF))
      ⟨0x80, 0x00, 0x80, 0x80, 0xFF⟩ 0x0201 2 [] = true := by
  decide

/-- V34. -/
theorem test_v34_txa :
    endsIn (step (harness Config.taken 0x0200 [0x8A] [] 0xFF 0x01 0x00 0x00 0xFF))
      ⟨0x01, 0x01, 0x00, 0x00, 0xFF⟩ 0x0201 2 [] = true := by
  decide

/-- V35. -/
theorem test_v35_tya :
    endsIn (step (harness Config.taken 0x0200 [0x98] [] 0x12 0x00 0x00 0x00 0xFF))
      ⟨0x00, 0x00, 0x00, 0x02, 0xFF⟩ 0x0201 2 [] = true := by
  decide

/-- V36. -/
theorem test_v36_tsx :
    endsIn (step (harness Config.taken 0x0200 [0xBA] [] 0x00 0x00 0x00 0x00 0xFD))
      ⟨0x00, 0xFD, 0x00, 0x80, 0xFD⟩ 0x0201 2 [] = true := by
  decide

/-- V37. -/
theorem test_v37_txs :
    endsIn (step (harness Config.taken 0x0200 [0x9A] [] 0x00 0x00 0x00 0x00 0xFF))
      ⟨0x00, 0x00, 0x00, 0x00, 0x00⟩ 0x0201 2 [] = true := by
  decide

/-- V39. -/
theorem test_v39_pha_at_sp_00 :
    endsIn (step (harness Config.taken 0x0200 [0x48] [] 0x44 0x00 0x00 0x00 0x00))
      ⟨0x44, 0x00, 0x00, 0x00, 0xFF⟩ 0x0201 3 [(0x01FF, 0x44)] = true := by
  decide

/-- V40. -/
theorem test_v40_php :
    endsIn (step (harness Config.taken 0x0200 [0x08] [] 0x00 0x00 0x00 0x01 0xFF))
      ⟨0x00, 0x00, 0x00, 0x01, 0xFE⟩ 0x0201 3 [(0x01FE, 0x31)] = true := by
  decide

/-- V43. -/
theorem test_v43_pla :
    endsIn (step (harness Config.taken 0x0200 [0x68] [(0x0100, 0x80)] 0x00 0x00 0x00 0x00 0x00))
      ⟨0x80, 0x00, 0x00, 0x80, 0xFF⟩ 0x0201 4 [] = true := by
  decide

/-- V44. -/
theorem test_v44_plp :
    endsIn (step (harness Config.taken 0x0200 [0x28] [(0x01FE, 0xC3)] 0x00 0x00 0x00 0x00 0xFE))
      ⟨0x00, 0x00, 0x00, 0xC3, 0xFD⟩ 0x0201 4 [] = true := by
  decide

/-- V46. -/
theorem test_v46_adc_50 :
    endsIn (step (harness Config.taken 0x0200 [0x69, 0x50] [] 0x50 0x00 0x00 0x00 0xFF))
      ⟨0xA0, 0x00, 0x00, 0xC0, 0xFF⟩ 0x0202 2 [] = true := by
  decide

/-- V49. -/
theorem test_v49_adc_ff :
    endsIn (step (harness Config.taken 0x0200 [0x69, 0xFF] [] 0x80 0x00 0x00 0x00 0xFF))
      ⟨0x7F, 0x00, 0x00, 0x41, 0xFF⟩ 0x0202 2 [] = true := by
  decide

/-- V52. -/
theorem test_v52_sbc_05 :
    endsIn (step (harness Config.taken 0x0200 [0xE9, 0x05] [] 0x05 0x00 0x00 0x00 0xFF))
      ⟨0xFF, 0x00, 0x00, 0x80, 0xFF⟩ 0x0202 2 [] = true := by
  decide

/-- V53. -/
theorem test_v53_sbc_b0 :
    endsIn (step (harness Config.taken 0x0200 [0xE9, 0xB0] [] 0x50 0x00 0x00 0x01 0xFF))
      ⟨0xA0, 0x00, 0x00, 0xC0, 0xFF⟩ 0x0202 2 [] = true := by
  decide

/-- V57. -/
theorem test_v57_and_81 :
    endsIn (step (harness Config.taken 0x0200 [0x29, 0x81] [] 0xFF 0x00 0x00 0x00 0xFF))
      ⟨0x81, 0x00, 0x00, 0x80, 0xFF⟩ 0x0202 2 [] = true := by
  decide

/-- V58. -/
theorem test_v58_ora_80 :
    endsIn (step (harness Config.taken 0x0200 [0x09, 0x80] [] 0x01 0x00 0x00 0x00 0xFF))
      ⟨0x81, 0x00, 0x00, 0x80, 0xFF⟩ 0x0202 2 [] = true := by
  decide

/-- V61. -/
theorem test_v61_eor_0f :
    endsIn (step (harness Config.taken 0x0200 [0x49, 0x0F] [] 0xF0 0x00 0x00 0x00 0xFF))
      ⟨0xFF, 0x00, 0x00, 0x80, 0xFF⟩ 0x0202 2 [] = true := by
  decide

/-- V62. -/
theorem test_v62_bit_10 :
    endsIn (step (harness Config.taken 0x0200 [0x24, 0x10] [(0x0010, 0xC0)] 0x0F 0x00 0x00 0x00 0xFF))
      ⟨0x0F, 0x00, 0x00, 0xC2, 0xFF⟩ 0x0202 3 [] = true := by
  decide

/-- V64. -/
theorem test_v64_cmp_01 :
    endsIn (step (harness Config.taken 0x0200 [0xC9, 0x01] [] 0x00 0x00 0x00 0x00 0xFF))
      ⟨0x00, 0x00, 0x00, 0x80, 0xFF⟩ 0x0202 2 [] = true := by
  decide

/-- V65. -/
theorem test_v65_cmp_00 :
    endsIn (step (harness Config.taken 0x0200 [0xC9, 0x00] [] 0x80 0x00 0x00 0x00 0xFF))
      ⟨0x80, 0x00, 0x00, 0x81, 0xFF⟩ 0x0202 2 [] = true := by
  decide

/-- V68. -/
theorem test_v68_cpx_0a :
    endsIn (step (harness Config.taken 0x0200 [0xE0, 0x0A] [] 0x00 0x05 0x00 0x00 0xFF))
      ⟨0x00, 0x05, 0x00, 0x80, 0xFF⟩ 0x0202 2 [] = true := by
  decide

/-- V71. -/
theorem test_v71_cpy_10 :
    endsIn (step (harness Config.taken 0x0200 [0xC4, 0x10] [(0x0010, 0x01)] 0x00 0x00 0x00 0x00 0xFF))
      ⟨0x00, 0x00, 0x00, 0x80, 0xFF⟩ 0x0202 3 [] = true := by
  decide

/-- V73. -/
theorem test_v73_inc_10 :
    endsIn (step (harness Config.taken 0x0200 [0xE6, 0x10] [(0x0010, 0xFF)] 0x00 0x00 0x00 0x00 0xFF))
      ⟨0x00, 0x00, 0x00, 0x02, 0xFF⟩ 0x0202 5 [(0x0010, 0x00)] = true := by
  decide

/-- V75. -/
theorem test_v75_dec_10_x :
    endsIn (step (harness Config.taken 0x0200 [0xD6, 0x10] [(0x0011, 0x00)] 0x00 0x01 0x00 0x00 0xFF))
      ⟨0x00, 0x01, 0x00, 0x80, 0xFF⟩ 0x0202 6 [(0x0011, 0xFF)] = true := by
  decide

/-- V76. -/
theorem test_v76_inx :
    endsIn (step (harness Config.taken 0x0200 [0xE8] [] 0x00 0xFF 0x00 0x00 0xFF))
      ⟨0x00, 0x00, 0x00, 0x02, 0xFF⟩ 0x0201 2 [] = true := by
  decide

/-- V77. -/
theorem test_v77_iny :
    endsIn (step (harness Config.taken 0x0200 [0xC8] [] 0x00 0x00 0x7F 0x00 0xFF))
      ⟨0x00, 0x00, 0x80, 0x80, 0xFF⟩ 0x0201 2 [] = true := by
  decide

/-- V78. -/
theorem test_v78_dex :
    endsIn (step (harness Config.taken 0x0200 [0xCA] [] 0x00 0x00 0x00 0x00 0xFF))
      ⟨0x00, 0xFF, 0x00, 0x80, 0xFF⟩ 0x0201 2 [] = true := by
  decide

/-- V79. -/
theorem test_v79_dey :
    endsIn (step (harness Config.taken 0x0200 [0x88] [] 0x00 0x00 0x01 0x00 0xFF))
      ⟨0x00, 0x00, 0x00, 0x02, 0xFF⟩ 0x0201 2 [] = true := by
  decide

/-- V80. -/
theorem test_v80_asl_a :
    endsIn (step (harness Config.taken 0x0200 [0x0A] [] 0x81 0x00 0x00 0x00 0xFF))
      ⟨0x02, 0x00, 0x00, 0x01, 0xFF⟩ 0x0201 2 [] = true := by
  decide

/-- V82. -/
theorem test_v82_asl_02ff_x :
    endsIn (step (harness Config.taken 0x0400 [0x1E, 0xFF, 0x02] [(0x0300, 0xC0)] 0x00 0x01 0x00 0x00 0xFF))
      ⟨0x00, 0x01, 0x00, 0x81, 0xFF⟩ 0x0403 7 [(0x0300, 0x80)] = true := by
  decide

/-- V84. -/
theorem test_v84_lsr_10 :
    endsIn (step (harness Config.taken 0x0200 [0x46, 0x10] [(0x0010, 0x02)] 0x00 0x00 0x00 0x00 0xFF))
      ⟨0x00, 0x00, 0x00, 0x00, 0xFF⟩ 0x0202 5 [(0x0010, 0x01)] = true := by
  decide

/-- V85. -/
theorem test_v85_lsr_a :
    endsIn (step (harness Config.taken 0x0200 [0x4A] [] 0xFF 0x00 0x00 0x80 0xFF))
      ⟨0x7F, 0x00, 0x00, 0x01, 0xFF⟩ 0x0201 2 [] = true := by
  decide

/-- V86. -/
theorem test_v86_rol_a :
    endsIn (step (harness Config.taken 0x0200 [0x2A] [] 0x40 0x00 0x00 0x01 0xFF))
      ⟨0x81, 0x00, 0x00, 0x80, 0xFF⟩ 0x0201 2 [] = true := by
  decide

/-- V87. -/
theorem test_v87_rol_a :
    endsIn (step (harness { Config.taken with rotateCarryIn := .new } 0x0200 [0x2A] [] 0x40 0x00 0x00 0x01 0xFF))
      ⟨0x80, 0x00, 0x00, 0x80, 0xFF⟩ 0x0201 2 [] = true := by
  decide

/-- V90. -/
theorem test_v90_ror_a :
    endsIn (step (harness Config.taken 0x0200 [0x6A] [] 0x02 0x00 0x00 0x01 0xFF))
      ⟨0x81, 0x00, 0x00, 0x80, 0xFF⟩ 0x0201 2 [] = true := by
  decide

/-- V93. -/
theorem test_v93_ror_10 :
    endsIn (step (harness Config.taken 0x0200 [0x66, 0x10] [(0x0010, 0x01)] 0x00 0x00 0x00 0x01 0xFF))
      ⟨0x00, 0x00, 0x00, 0x81, 0xFF⟩ 0x0202 5 [(0x0010, 0x80)] = true := by
  decide

/-- V94. -/
theorem test_v94_jmp_1234 :
    endsIn (step (harness Config.taken 0x0200 [0x4C, 0x34, 0x12] [] 0x00 0x00 0x00 0x00 0xFF))
      ⟨0x00, 0x00, 0x00, 0x00, 0xFF⟩ 0x1234 3 [] = true := by
  decide

/-- V95. -/
theorem test_v95_jmp_10ff :
    endsIn (step (harness Config.taken 0x0200 [0x6C, 0xFF, 0x10]
      [(0x1000, 0x56), (0x10FF, 0x34), (0x1100, 0x12)] 0x00 0x00 0x00 0x00 0xFF))
      ⟨0x00, 0x00, 0x00, 0x00, 0xFF⟩ 0x1234 5 [] = true := by
  decide

/-- V96. -/
theorem test_v96_jsr_0300 :
    endsIn (step (harness Config.taken 0x0200 [0x20, 0x00, 0x03] [] 0x00 0x00 0x00 0x00 0xFF))
      ⟨0x00, 0x00, 0x00, 0x00, 0xFD⟩ 0x0300 6 [(0x01FD, 0x02), (0x01FE, 0x02)] = true := by
  decide

/-- V97. -/
theorem test_v97_jsr_0300_at_sp_01 :
    endsIn (step (harness Config.taken 0x0200 [0x20, 0x00, 0x03] [] 0x00 0x00 0x00 0x00 0x01))
      ⟨0x00, 0x00, 0x00, 0x00, 0xFF⟩ 0x0300 6 [(0x01FF, 0x02), (0x0200, 0x02)] = true := by
  decide

/-- V98. -/
theorem test_v98_rts :
    endsIn (step (harness Config.taken 0x0200 [0x60] [(0x01FD, 0x02), (0x01FE, 0x02)] 0x00 0x00 0x00 0x00 0xFD))
      ⟨0x00, 0x00, 0x00, 0x00, 0xFF⟩ 0x0203 6 [] = true := by
  decide

/-- V99. -/
theorem test_v99_rts_at_sp_ff :
    endsIn (step (harness Config.taken 0x0200 [0x60] [(0x01FF, 0x34), (0x0200, 0x60)] 0x00 0x00 0x00 0x00 0xFF))
      ⟨0x00, 0x00, 0x00, 0x00, 0x01⟩ 0x6035 6 [] = true := by
  decide

/-- V100. -/
theorem test_v100_bpl_5 :
    endsIn (step (harness Config.taken 0x0200 [0x10, 0x05] [] 0x00 0x00 0x00 0x00 0xFF))
      ⟨0x00, 0x00, 0x00, 0x00, 0xFF⟩ 0x0207 3 [] = true := by
  decide

/-- V102. -/
theorem test_v102_bmi_10 :
    endsIn (step (harness Config.taken 0x0200 [0x30, 0x10] [] 0x00 0x00 0x00 0x80 0xFF))
      ⟨0x00, 0x00, 0x00, 0x80, 0xFF⟩ 0x0212 3 [] = true := by
  decide

/-- V103. -/
theorem test_v103_bvc_10 :
    endsIn (step (harness Config.taken 0x0300 [0x50, 0x10] [] 0x00 0x00 0x00 0x00 0xFF))
      ⟨0x00, 0x00, 0x00, 0x00, 0xFF⟩ 0x0312 3 [] = true := by
  decide

/-- V104. -/
theorem test_v104_bvs_fe :
    endsIn (step (harness Config.taken 0x0300 [0x70, 0xFE] [] 0x00 0x00 0x00 0x40 0xFF))
      ⟨0x00, 0x00, 0x00, 0x40, 0xFF⟩ 0x03FE 4 [] = true := by
  decide

/-- V105. -/
theorem test_v105_bvs_fe :
    endsIn (step (harness { Config.taken with branchMode := .orSext16 } 0x0300 [0x70, 0xFE]
      [] 0x00 0x00 0x00 0x40 0xFF))
      ⟨0x00, 0x00, 0x00, 0x40, 0xFF⟩ 0xFFFE 4 [] = true := by
  decide

/-- V107. -/
theorem test_v107_bcc_7f :
    endsIn (step (harness Config.taken 0x0200 [0x90, 0x7F] [] 0x00 0x00 0x00 0x00 0xFF))
      ⟨0x00, 0x00, 0x00, 0x00, 0xFF⟩ 0x027F 3 [] = true := by
  decide

/-- V108. -/
theorem test_v108_bcs_fd :
    endsIn (step (harness Config.taken 0x02F0 [0xB0, 0xFD] [] 0x00 0x00 0x00 0x01 0xFF))
      ⟨0x00, 0x00, 0x00, 0x01, 0xFF⟩ 0x02FF 4 [] = true := by
  decide

/-- V109. -/
theorem test_v109_bne_fb :
    endsIn (step (harness Config.taken 0x0200 [0xD0, 0xFB] [] 0x00 0x00 0x00 0x00 0xFF))
      ⟨0x00, 0x00, 0x00, 0x00, 0xFF⟩ 0x02FB 3 [] = true := by
  decide

/-- V110. -/
theorem test_v110_bne_fb :
    endsIn (step (harness { Config.taken with branchMode := .addSigned } 0x0200 [0xD0, 0xFB]
      [] 0x00 0x00 0x00 0x00 0xFF))
      ⟨0x00, 0x00, 0x00, 0x00, 0xFF⟩ 0x01FD 4 [] = true := by
  decide

/-- V111. -/
theorem test_v111_beq_00 :
    endsIn (step (harness Config.taken 0x0200 [0xF0, 0x00] [] 0x00 0x00 0x00 0x02 0xFF))
      ⟨0x00, 0x00, 0x00, 0x02, 0xFF⟩ 0x0202 3 [] = true := by
  decide

/-- V112. -/
theorem test_v112_beq_03 :
    endsIn (step (harness Config.taken 0x0200 [0xF0, 0x03] [] 0x00 0x00 0x00 0x00 0xFF))
      ⟨0x00, 0x00, 0x00, 0x00, 0xFF⟩ 0x0202 2 [] = true := by
  decide

/-- V113. -/
theorem test_v113_brk :
    endsIn (step (harness Config.taken 0x0200 [0x00] [] 0x00 0x00 0x00 0x00 0xFF))
      ⟨0x00, 0x00, 0x00, 0x04, 0xFC⟩ 0x9000 7 [(0x01FC, 0x30), (0x01FD, 0x02), (0x01FE, 0x02)] = true := by
  decide

/-- V114. -/
theorem test_v114_brk :
    endsIn (step (harness Config.taken 0x0200 [0x00] [] 0x00 0x00 0x00 0xFF 0xFF))
      ⟨0x00, 0x00, 0x00, 0xFF, 0xFC⟩ 0x9000 7 [(0x01FC, 0xFF)] = true := by
  decide

/-- V115. -/
theorem test_v115_rti :
    endsIn (step (harness Config.taken 0x0200 [0x40]
      [(0x01FC, 0x30), (0x01FD, 0x02), (0x01FE, 0x02)] 0x00 0x00 0x00 0x00 0xFC))
      ⟨0x00, 0x00, 0x00, 0x30, 0xFF⟩ 0x0202 6 [] = true := by
  decide

/-- V116. -/
theorem test_v116_clc :
    endsIn (step (harness Config.taken 0x0200 [0x18] [] 0x00 0x00 0x00 0xFF 0xFF))
      ⟨0x00, 0x00, 0x00, 0xFE, 0xFF⟩ 0x0201 2 [] = true := by
  decide

/-- V117. -/
theorem test_v117_sec :
    endsIn (step (harness Config.taken 0x0200 [0x38] [] 0x00 0x00 0x00 0x00 0xFF))
      ⟨0x00, 0x00, 0x00, 0x01, 0xFF⟩ 0x0201 2 [] = true := by
  decide

/-- V118. -/
theorem test_v118_cli :
    endsIn (step (harness Config.taken 0x0200 [0x58] [] 0x00 0x00 0x00 0xFF 0xFF))
      ⟨0x00, 0x00, 0x00, 0xFB, 0xFF⟩ 0x0201 2 [] = true := by
  decide

/-- V119. -/
theorem test_v119_sei :
    endsIn (step (harness Config.taken 0x0200 [0x78] [] 0x00 0x00 0x00 0x00 0xFF))
      ⟨0x00, 0x00, 0x00, 0x04, 0xFF⟩ 0x0201 2 [] = true := by
  decide

/-- V120. -/
theorem test_v120_cld :
    endsIn (step (harness Config.taken 0x0200 [0xD8] [] 0x00 0x00 0x00 0xFF 0xFF))
      ⟨0x00, 0x00, 0x00, 0xF7, 0xFF⟩ 0x0201 2 [] = true := by
  decide

/-- V121. -/
theorem test_v121_sed :
    endsIn (step (harness Config.taken 0x0200 [0xF8] [] 0x00 0x00 0x00 0x00 0xFF))
      ⟨0x00, 0x00, 0x00, 0x08, 0xFF⟩ 0x0201 2 [] = true := by
  decide

/-- V122. -/
theorem test_v122_clv :
    endsIn (step (harness Config.taken 0x0200 [0xB8] [] 0x00 0x00 0x00 0xFF 0xFF))
      ⟨0x00, 0x00, 0x00, 0xBF, 0xFF⟩ 0x0201 2 [] = true := by
  decide

/-- V123. -/
theorem test_v123_nop :
    endsIn (step (harness Config.taken 0x0200 [0xEA] [] 0x00 0x00 0x00 0x00 0xFF))
      ⟨0x00, 0x00, 0x00, 0x00, 0xFF⟩ 0x0201 2 [] = true := by
  decide

/-- V124. -/
theorem test_v124_unknown_0x02 :
    endsIn (step (harness Config.taken 0x0200 [0x02] [] 0x00 0x00 0x00 0x00 0xFF))
      ⟨0x00, 0x00, 0x00, 0x00, 0xFF⟩ 0x0201 0 [] = true := by
  decide

/-! ## Well-formedness: each check with a term it refuses -/

/-- The parameters taken are well formed; a zero divisor is refused (30_encoding.md R112). -/
theorem test_wf_divisor :
    Config.taken.wf = true ∧ ({ Config.taken with pageDivisor := 0 } : Config).divisorOk = false ∧
      ({ Config.taken with pageDivisor := 0 } : Config).wf = false := by decide

/-- P_JSR_RET_BIAS is 1 or 0 and nothing else (00_scope.md R5). -/
theorem test_wf_bias :
    ({ Config.taken with jsrRetBias := 0 } : Config).wf = true ∧
      ({ Config.taken with jsrRetBias := 2 } : Config).biasOk = false ∧
      ({ Config.taken with jsrRetBias := 2 } : Config).wf = false := by decide

/-- A memory out of order, with a repeat, or listing the unlisted value is refused. -/
theorem test_wf_memory :
    Memory.wf [(1, 0x05#8), (2, 0x06#8)] = true ∧ Memory.wf [(2, 0x05#8), (1, 0x06#8)] = false ∧
      Memory.wf [(1, 0x05#8), (1, 0x06#8)] = false ∧ Memory.wf [(1, 0x00#8)] = false := by decide

/-- A bus is refused for storage past its device's end, a range past 0xFFFF, a range that names no device, and a device
clocked twice (20_memory.md R55, R56, R60). -/
theorem test_wf_bus :
    Bus.wf ⟨[⟨0, 4, .ram [(3, 0x01#8)]⟩], [⟨0, 4, 0⟩], [0], [], 0, 0, 0⟩ = true ∧
      Bus.wf ⟨[⟨0, 4, .ram [(4, 0x01#8)]⟩], [⟨0, 4, 0⟩], [0], [], 0, 0, 0⟩ = false ∧
      Bus.wf ⟨[⟨0xFFFF, 2, .ram []⟩], [⟨0xFFFF, 2, 0⟩], [0], [], 0, 0, 0⟩ = false ∧
      Bus.wf ⟨[⟨0, 4, .ram []⟩], [⟨0, 4, 1⟩], [0], [], 0, 0, 0⟩ = false ∧
      Bus.wf ⟨[⟨0, 4, .ram []⟩], [⟨0, 4, 0⟩], [0, 0], [], 0, 0, 0⟩ = false := by decide

/-! ## Decoding: words written out from the opcode map and formats (30_encoding.md R101, R120) -/

/-- 41_load_store.md R170 to R176: A1, BE, B4, 9D, 96, 8C. -/
theorem test_decode_load_store :
    decode [0b10100001#8, 0x20#8] = .ok (.ldaIndX 0x20#8, []) ∧
      decode [0b10111110#8, 0x34#8, 0x12#8] = .ok (.ldxAbsY 0x1234#16, []) ∧
      decode [0b10110100#8, 0x10#8] = .ok (.ldyZpX 0x10#8, []) ∧
      decode [0b10011101#8, 0x00#8, 0x03#8] = .ok (.staAbsX 0x0300#16, []) ∧
      decode [0b10010110#8, 0x20#8] = .ok (.stxZpY 0x20#8, []) ∧
      decode [0b10001100#8, 0xCD#8, 0xAB#8] = .ok (.styAbs 0xABCD#16, []) := by decide

/-- 42_transfer_stack.md R185 to R194: AA, 9A, 48, 28. -/
theorem test_decode_transfer_stack :
    decode [0b10101010#8] = .ok (.tax, []) ∧ decode [0b10011010#8] = .ok (.txs, []) ∧
      decode [0b01001000#8, 0xFF#8] = .ok (.pha, [0xFF#8]) ∧ decode [0b00101000#8] = .ok (.plp, []) := by decide

/-- 43_arith_logic.md R200 to R215: 71, F9, 2C, C1, CE, 88. -/
theorem test_decode_arith_logic :
    decode [0b01110001#8, 0x40#8] = .ok (.adcIndY 0x40#8, []) ∧
      decode [0b11111001#8, 0x34#8, 0x12#8] = .ok (.sbcAbsY 0x1234#16, []) ∧
      decode [0b00101100#8, 0x00#8, 0x03#8] = .ok (.bitAbs 0x0300#16, []) ∧
      decode [0b11000001#8, 0x7F#8] = .ok (.cmpIndX 0x7F#8, []) ∧
      decode [0b11001110#8, 0x00#8, 0x03#8] = .ok (.decAbs 0x0300#16, []) ∧
      decode [0b10001000#8] = .ok (.dey, []) := by decide

/-- 44_shift_rotate.md R230 to R234: 0A, 4E, 36, 6A. -/
theorem test_decode_shift_rotate :
    decode [0b00001010#8] = .ok (.aslAcc, []) ∧
      decode [0b01001110#8, 0x00#8, 0x03#8] = .ok (.lsrAbs 0x0300#16, []) ∧
      decode [0b00110110#8, 0x10#8] = .ok (.rolZpX 0x10#8, []) ∧ decode [0b01101010#8] = .ok (.rorAcc, []) := by decide

/-- 45_control.md R240 to R255: 6C, 20, 90, 00, 40. -/
theorem test_decode_control :
    decode [0b01101100#8, 0xFF#8, 0x10#8] = .ok (.jmpInd 0x10FF#16, []) ∧
      decode [0b00100000#8, 0x00#8, 0x03#8] = .ok (.jsr 0x0300#16, []) ∧
      decode [0b10010000#8, 0x7F#8] = .ok (.bcc 0x7F#8, []) ∧ decode [0b00000000#8, 0xEA#8] = .ok (.brk, [0xEA#8]) ∧
      decode [0b01000000#8] = .ok (.rti, []) := by decide

/-- 46_flags_misc.md R270 to R277: D8, B8, EA. -/
theorem test_decode_flags_misc :
    decode [0b11011000#8] = .ok (.cld, []) ∧ decode [0b10111000#8] = .ok (.clv, []) ∧
      decode [0b11101010#8] = .ok (.nop, []) := by decide

/-- An undocumented opcode and bytes that end early are refused by name (30_encoding.md R122). -/
theorem test_decode_refusals :
    decode [0x02#8, 0x00#8] = .error (.unknownOpcode 0x02#8) ∧ decode [] = .error .noBytes ∧
      decode [0x4C#8, 0x00#8] = .error (.truncated 0x4C#8) := by decide

/-- The words of the opcode table's numbering: the first byte in bits 7 to 0. -/
theorem test_table_words :
    decodeTableWord 8 0xEA = some .nop ∧ decodeTableWord 16 0xFB_D0 = some (.bne 0xFB#8) ∧
      decodeTableWord 24 0x12_34_AD = some (.ldaAbs 0x1234#16) ∧ decodeTableWord 8 0xAD = some (.ldaAbs 0#16) ∧
      decodeTableWord 8 0x02 = none := by decide

/-! ## Ticks, the log and the latch -/

/-- T1, tick 1: LDA $1234 leaves two records and the latch (0x1234, 0x01). -/
theorem test_t1_fetch_tick :
    (match step (harness Config.taken 0x0200 [0xAD, 0x34, 0x12, 0xEA] [(0x1234, 0x01)] 0 0 0 0 0xFF) with
      | .next s => decide (s.bus.log = [⟨.read, 0x0200, 0x00AD, 0⟩, ⟨.read, 0x0201, 0x1234, 1⟩]) &&
        decide (s.bus.lastAddress = 0x1234 ∧ s.bus.lastData = 0x01 ∧ s.pending = 4 ∧ s.a = 0x01) &&
        decide (s.diagnostics = ⟨some 0xAD, 4, some 4, 0x1234⟩)
      | _ => false) = true := by decide

/-- T1, ticks 2 and 4: a Busy tick pops the next record, or nothing from an empty log. -/
theorem test_t1_busy_tick :
    let s := { harness Config.taken 0x0203 [] [] 0 0 0 0 0xFF with pending := 4 }
    (match step { s with bus := { s.bus with log := [⟨.read, 0x0200, 0xAD, 0⟩, ⟨.read, 0x0201, 0x1234, 1⟩] } } with
      | .next t => decide (t.bus.log = [⟨.read, 0x0200, 0xAD, 0⟩] ∧ t.bus.lastAddress = 0x0201 ∧
          t.bus.lastData = 0x1234 ∧ t.pending = 3)
      | _ => false) = true ∧
    (match step { s with bus := { s.bus with log := [], lastAddress := 0x0200, lastData := 0xAD }, pending := 2 } with
      | .next t => decide (t.bus.log = [] ∧ t.bus.lastAddress = 0x0200 ∧ t.bus.lastData = 0xAD ∧ t.pending = 1)
      | _ => false) = true := by decide

/-- An unknown opcode sets the mark and costs 0 (40_core_cycle.md R146). -/
theorem test_unknown_opcode_mark :
    (match step (harness Config.taken 0x0200 [0x02] [] 0 0 0 0 0xFF) with
      | .next s => decide (s.unknownSeen = true ∧ s.cyclesTotal = some 0 ∧ s.pending = 0 ∧ s.pc = 0x0201)
      | _ => false) = true := by decide

/-- P_SUPPORTED: an opcode removed from the set is unknown (30_encoding.md R123). -/
theorem test_removed_opcode :
    endsIn (step (harness { Config.taken with removedOpcodes := [0xE8] } 0x0200 [0xE8] [] 0 0x05 0 0 0xFF))
      ⟨0, 0x05, 0, 0, 0xFF⟩ 0x0201 0 [] = true := by decide

/-- V51: with D set, ADC completes; the cost, PC, SP, X and Y are fixed (43_arith_logic.md
R201). -/
theorem test_decimal_completes :
    (match step (harness Config.taken 0x0200 [0x69, 0x01] [] 0x09 0x01 0x02 0x3C 0xFF) with
      | .next s => decide (s.x = 1 ∧ s.y = 2 ∧ s.sp = 0xFF ∧ s.pc = 0x0202 ∧ s.pending = 2)
      | _ => false) = true := by decide

/-- P_DECIMAL = `BINARY`: D is ignored (43_arith_logic.md R201). -/
theorem test_decimal_binary :
    endsIn (step (harness { Config.taken with decimal := .binary } 0x0200 [0x69, 0x01] [] 0x09 0 0 0x08 0xFF))
      ⟨0x0A, 0, 0, 0x08, 0xFF⟩ 0x0202 2 [] = true := by decide

/-! ## Other launch parameters -/

/-- P_ZP_INDEX_WRAP = `NOWRAP` and P_EA_OVERFLOW = `FLOAT` (30_encoding.md R107, R109): 0xF0 + 0x20 is 0x0110; 0xFFFF + 1 is
0x10000, unmapped, read as 0xFF at cost 4, since 65535 div 255 = 65536 div 255. -/
theorem test_address_parameters :
    endsIn (step (harness { Config.taken with zpIndexWrap := .noWrap } 0x0200 [0xB5, 0xF0] [(0x0110, 0x42)] 0 0x20 0 0
      0xFF)) ⟨0x42, 0x20, 0, 0, 0xFF⟩ 0x0202 4 [] = true ∧
    endsIn (step (harness { Config.taken with eaOverflow := .float } 0x0200 [0xBD, 0xFF, 0xFF] [(0x0000, 0x09)] 0 1 0 0
      0xFF)) ⟨0xFF, 1, 0, 0x80, 0xFF⟩ 0x0203 4 [] = true := by decide

/-- P_STORE_SETS_NZ, P_PHP_MASK and P_JSR_RET_BIAS (41_load_store.md R173; 42_transfer_stack.md R192; 45_control.md
R241). -/
theorem test_store_php_jsr_parameters :
    endsIn (step (harness { Config.taken with storeSetsNZ := true } 0x0200 [0x85, 0x10] [] 0x80 0 0 0 0xFF))
      ⟨0x80, 0, 0, 0x80, 0xFF⟩ 0x0202 3 [(0x0010, 0x80)] = true ∧
    endsIn (step (harness { Config.taken with phpMask := 0x00 } 0x0200 [0x08] [] 0 0 0 0x01 0xFF))
      ⟨0, 0, 0, 0x01, 0xFE⟩ 0x0201 3 [(0x01FE, 0x01)] = true ∧
    endsIn (step (harness { Config.taken with jsrRetBias := 0 } 0x0200 [0x20, 0x00, 0x03] [] 0 0 0 0 0xFF))
      ⟨0, 0, 0, 0, 0xFD⟩ 0x0300 6 [(0x01FD, 0x03), (0x01FE, 0x02)] = true := by decide

/-- P_CYCLES: an overridden base cost (00_scope.md R5). -/
theorem test_cycles_parameter :
    endsIn (step (harness { Config.taken with cycleOverrides := [(0xEA, 3)] } 0x0200 [0xEA] [] 0 0 0 0 0xFF))
      ⟨0, 0, 0, 0, 0xFF⟩ 0x0201 3 [] = true := by decide

/-! ## Faults -/

/-- A machine whose RAM ends at 0x01FF, with ROM from 0x8000, running `bytes` from the ROM. -/
def shortRam (cfg : Config) (bytes : List Byte) (sp : Byte) : State :=
  { State.reset with
    cfg := cfg, sp := sp, pc := 0x8000
    bus := { State.reset.bus with
      devs := [⟨0x0000, 0x0200, .ram [(0x01FF, 0x34)]⟩, ⟨0x8000, 0x8000, .rom (Memory.setAll [] 0 bytes)⟩]
      map := [⟨0x0000, 0x0200, 0⟩, ⟨0x8000, 0x8000, 1⟩] } }

/-- T2: RTS with SP = 0xFF reads a short at the last byte of its device; the opcode read has happened (20_memory.md R65,
60_exceptions.md R311). -/
theorem test_t2_short_past_device :
    faultsShort (step (shortRam Config.taken [0x60] 0xFF))
      (fun m => decide (m.sp = 0xFF ∧ m.bus.log = [⟨.read, 0x8000, 0x60, 0⟩])) = true := by decide

/-- The same from a push: JSR with SP = 0x01 writes its short at 0x01FF; its operand has been read and SP lowered, and no
byte is stored (20_memory.md R65, R69; 42_transfer_stack.md R183). -/
theorem test_push_past_device :
    faultsShort (step (shortRam Config.taken [0x20, 0x00, 0x80] 0x01))
      (fun m => decide (m.sp = 0xFF ∧ m.addrLatch = 0x8000 ∧ m.peek 0x01FF = some 0x34 ∧
        m.bus.log = [⟨.read, 0x8000, 0x20, 0⟩, ⟨.read, 0x8001, 0x8000, 1⟩])) = true := by decide

/-- RTI with SP = 0xFE: the short read comes after the status byte and SP + 1 (70_reset_and_hazards.md R340). -/
theorem test_rti_past_device :
    faultsShort (step (shortRam Config.taken [0x40] 0xFE))
      (fun m => decide (m.sp = 0xFF ∧ m.p = 0x00 ∧
        m.bus.log = [⟨.read, 0x8000, 0x40, 0⟩, ⟨.read, 0x01FE, 0x00, 1⟩])) = true := by decide

/-- T3: nothing written since reset; STA faults for A before its write, ADC for D before A and C (10_state.md R37). -/
theorem test_t3_unwritten_reads :
    faultsUnwritten (step { harness Config.taken 0x0200 [0x8D, 0x00, 0x03] [] 0 0 0 0 0xFF with written := Written.none })
        (.reg .a) (fun m => decide (m.bus.log = [⟨.read, 0x0200, 0x8D, 0⟩, ⟨.read, 0x0201, 0x0300, 1⟩])) = true ∧
      faultsUnwritten (step { harness Config.taken 0x0200 [0x69, 0x01] [] 0 0 0 0 0xFF with written := Written.none })
        (.flag .d) (fun m => decide (m.bus.log.length = 2)) = true := by decide

/-- (zp),Y reads its pointer before Y (30_encoding.md R114, 60_exceptions.md R311). -/
theorem test_unwritten_index :
    faultsUnwritten (step { harness Config.taken 0x0200 [0xB1, 0x10] [(0x0010, 0x00), (0x0011, 0x03)] 0 0 0 0 0xFF with
        written := Written.none }) (.reg .y)
      (fun m => decide (m.bus.log = [⟨.read, 0x0200, 0xB1, 0⟩, ⟨.read, 0x0201, 0x10, 1⟩, ⟨.read, 0x0010, 0x0300, 2⟩])) =
        true := by decide

/-- PHP reads every bit the mask does not replace; here C is the lowest unwritten one (10_state.md R37, log 12). -/
theorem test_php_unwritten :
    faultsUnwritten (step { harness Config.taken 0x0200 [0x08] [] 0 0 0 0 0xFF with
        written := { Written.all with p := 0xFE } }) (.flag .c) (fun m => decide (m.sp = 0xFF)) = true ∧
      endsIn (step { harness Config.taken 0x0200 [0x08] [] 0 0 0 0 0xFF with written := { Written.all with p := 0xCF } })
        ⟨0, 0, 0, 0, 0xFE⟩ 0x0201 3 [(0x01FE, 0x30)] = true := by decide

/-- BRK reads P before its first write (10_state.md R37): with nothing written SP and the stack stay, and the fault comes
before that of a push past its device. -/
theorem test_brk_unwritten :
    faultsUnwritten (step { harness Config.taken 0x0200 [0x00] [(0x01FE, 0x77)] 0 0 0 0 0xFF with written := Written.none })
        (.flag .c) (fun m => decide (m.sp = 0xFF ∧ m.peek 0x01FE = some 0x77 ∧ m.bus.log = [⟨.read, 0x0200, 0x00, 0⟩])) =
      true ∧
      faultsUnwritten (step { shortRam Config.taken [0x00] 0x01 with written := Written.none }) (.flag .c)
        (fun m => decide (m.sp = 0x01)) = true := by decide

/-- P_UNKNOWN_OPCODE = `FAULT`: the opcode's record and unknown_seen stay (40_core_cycle.md R146, 60_exceptions.md R301). -/
theorem test_unknown_opcode_fault :
    faultsUnknown (step (harness { Config.taken with unknownOpcode := .fault } 0x0200 [0x02] [] 0 0 0 0 0xFF)) 0x02 0x0200
      (fun m => decide (m.pc = 0x0201 ∧ m.unknownSeen = true ∧ m.bus.log = [⟨.read, 0x0200, 0x02, 0⟩])) = true := by
  decide

/-! ## Assembly, reset and placing an instruction -/

/-- Registration: the first owner keeps an address, the second device is clocked second, and 0x10000 is refused
(20_memory.md R52 to R56). -/
theorem test_registration :
    (match standardPlatform with
      | .ok b => decide (b.owner 0x7FFF = some 0 ∧ b.owner 0x8000 = some 1 ∧ b.owner 0xFFFF = some 1 ∧
          b.owner 0x10000 = none ∧ b.order = [0, 1]) &&
        (match registerAtOffset 0x7FFF 1 b with
          | .ok r => decide (r.warned = true ∧ r.bus.owner 0x7FFF = some 0)
          | .error _ => false) &&
        decide (registerAtOffset 0x10000 1 b = .error .addressOutOfRange) &&
        decide (registerAuto 0x8001 1 b = .error .addressOutOfRange)
      | .error _ => false) = true := by decide

/-- A ROM image of two bytes reads back; one byte too many is refused (20_memory.md R64). -/
theorem test_rom_image :
    let b := construct ⟨0, 2, .rom []⟩ Bus.powerOn
    (match loadImage [] 0 [0x12, 0x34] b with
      | .ok c => decide (c.devs = [⟨0, 2, .rom [(0, 0x12), (1, 0x34)]⟩])
      | .error _ => false) = true ∧
    loadImage [] 0 [0x12, 0x34, 0x56] b = .error .imageTooLarge := by decide

/-- A second, shorter load replaces the whole store: past it the bytes are ROM_FILL's (20_memory.md R64). -/
theorem test_rom_second_load :
    let fill : List Byte := [0xAA, 0xBB, 0xCC]
    (match loadImage fill 0 [0x12, 0x34, 0x56] (construct ⟨0, 3, .rom (romContents 3 fill [])⟩ Bus.powerOn) with
      | .ok c =>
        match loadImage fill 0 [0x78] c with
        | .ok e => decide (e.devs = [⟨0, 3, .rom [(0, 0x78), (1, 0xBB), (2, 0xCC)]⟩])
        | .error _ => false
      | .error _ => false) = true := by decide

/-- Reset with nothing mapped: PC = 0xFFFF, SP = 0xFF, one record (70_reset_and_hazards.md R330; 20_memory.md R67). -/
theorem test_reset_unmapped_vector :
    (match launch { Config.taken with regInit := .unwritten } Bus.powerOn with
      | .next s => decide (s.pc = 0xFFFF ∧ s.sp = 0xFF ∧ s.written = Written.none ∧
          s.bus.log = [⟨.read, 0xFFFC, 0xFFFF, 0⟩])
      | _ => false) = true := by decide

/-- An instruction placed at the reset PC is the first one run. -/
theorem test_place_instruction :
    endsIn (step (State.reset.withFetchWord 16 0x80_A9)) ⟨0x80, 0, 0, 0x80, 0xFF⟩ 0x0002 2 [] = true ∧
      endsIn (step (State.reset.withFetchWord 24 0x12_34_4C)) ⟨0, 0, 0, 0, 0xFF⟩ 0x1234 3 [] = true := by decide

/-! ## Witnesses: for each obligation with hypotheses, a state and operands that meet them all together -/

/-- RAM 0x0000 to 0x7FFF with a pointer 0x0300 at 0x0010, ROM above, every register and flag written, C set. -/
def wit : State :=
  harness Config.taken 0x0200 [0xEA] [(0x0010, 0x00), (0x0011, 0x03), (0x0300, 0x81)] 0x80 0x01 0x01 0x01 0xFF

/-- `wit` under other parameters. -/
def witWith (cfg : Config) : State := { wit with cfg := cfg }

/-- `wit` with nothing written since reset. -/
def witUnwritten : State := { wit with written := Written.none }

/-- A platform with a RAM and an opaque peripheral at 0x4000 to 0x40FF, both clocked. -/
def witPeripheral : State :=
  { wit with bus := { wit.bus with
      devs := [⟨0x0000, 0x4000, .ram []⟩, ⟨0x4000, 0x0100, .peripheral 7 [0x01] true false⟩]
      map := [⟨0x0000, 0x4000, 0⟩, ⟨0x4000, 0x0100, 1⟩] } }

/-- A two-byte instruction at 0xFFFF, the last byte of the ROM: its operand is at 0x0000. -/
def witTop : State :=
  { wit with
    pc := 0xFFFF
    bus := { wit.bus with devs := [⟨0, 0x8000, .ram [(0, 0x80)]⟩, ⟨0x8000, 0x8000, .rom [(0x7FFF, 0xA9)]⟩] } }

/-- `wit` under `FLOAT`, and under `NOWRAP`. -/
def witFloat : State := witWith { Config.taken with eaOverflow := .float }
def witNoWrap : State := witWith { Config.taken with zpIndexWrap := .noWrap }

/-- Only D written since reset. -/
def witOnlyD : State := { wit with written := { Written.none with p := 0x08 } }

/-- JMP at 0x7FFE: the first operand byte is the last byte of the RAM, so the operand's short runs past it. -/
def witFetchPastDevice : State := harness Config.taken 0x7FFE [0x4C, 0x00] [] 0 0 0 0 0xFF

/-- `wit` with a RAM that ends at 0x00FF and nothing else. -/
def witZeroPage : State :=
  { wit with bus := { wit.bus with devs := [⟨0, 0x0100, .ram []⟩], map := [⟨0, 0x0100, 0⟩] } }

theorem witness_DecodeAfterEncode :
    (Instr.jsr 0xFFFF).wf = true ∧ (Instr.ldaZp 0xFF).wf = true ∧ Instr.brk.wf = true := by decide

theorem witness_EncodeAfterDecode :
    decode [0x6C, 0xFF, 0x10, 0xEA] = .ok (.jmpInd 0x10FF, [0xEA]) ∧ decode [0xA1, 0x20] = .ok (.ldaIndX 0x20, []) ∧
      decode [0x00] = .ok (.brk, []) := by decide

theorem witness_UndocumentedOpcodesRefused :
    documented 0x02 = false ∧ documented 0xFF = false ∧ documented 0x00 = true ∧ documented 0xFE = true := by decide

theorem witness_LengthFromOpcodeAlone :
    decode (0xAD :: [0x34, 0x12, 0xEA]) = .ok (.ldaAbs 0x1234, [0xEA]) ∧ documented 0x02 = false := by decide

/-- One, two and three bytes, and an operand past 0xFFFF: PC wraps to 0x0000. -/
theorem witness_StepRunsDecodedInstruction :
    (∀ c ∈ ([(0x0200, [0xEA], .nop), (0x0200, [0xA9, 0x80], .ldaImm 0x80), (0x0200, [0xAD, 0x34, 0x12], .ldaAbs 0x1234)] :
        List (Word × List Byte × Instr)),
      (harness Config.taken c.1 c.2.1 [] 0 0 0 0 0xFF).pending = 0 ∧
        ((harness Config.taken c.1 c.2.1 [] 0 0 0 0 0xFF).codeAtPc.map Prod.fst) = some c.2.1 ∧
        decode c.2.1 = .ok (c.2.2, []) ∧ Config.taken.removedOpcodes.contains c.2.2.opcode = false) ∧
    witTop.pending = 0 ∧ (witTop.codeAtPc.map Prod.fst) = some [0xA9, 0x80] ∧
    decode [0xA9, 0x80] = .ok (.ldaImm 0x80, []) := by decide

/-- A peripheral that holds the operand of the instruction at PC. -/
theorem witness_StepRunsDecodedInstruction_peripheral :
    let s := { witPeripheral with
      pc := 0x3FFF
      bus := { witPeripheral.bus with
        devs := [⟨0x0000, 0x4000, .ram [(0x3FFF, 0xA9)]⟩, ⟨0x4000, 0x0100, .peripheral 7 [0x01] true false⟩] } }
    s.pending = 0 ∧ (∃ d, s.bus.deviceAt 0x4000 = some (1, d)) ∧ ∃ i u, fetchInstr s = .ok (.instr i u) :=
  ⟨rfl, ⟨_, rfl⟩, _, _, rfl⟩

theorem witness_BusyTickOnlyCountsDown : 0 < { wit with pending := 1 }.pending := by decide

/-- Each policy; and an opcode byte from a peripheral, whose value is opaque, with every opcode removed. -/
theorem witness_UnknownOpcodeTick :
    let s := harness Config.taken 0x0200 [0x02] [] 0 0 0 0 0xFF
    let s' := harness { Config.taken with unknownOpcode := .fault } 0x0200 [0x02] [] 0 0 0 0 0xFF
    s.pending = 0 ∧ (memRead8 (pcAddr s) (busReset s)).1 = 0x02 ∧ s.peek (pcAddr s) = some 0x02 ∧
      descriptor s.cfg 0x02 = none ∧ s.cfg.unknownOpcode = .nop ∧ s'.pending = 0 ∧
      (memRead8 (pcAddr s') (busReset s')).1 = 0x02 ∧ (descriptor s'.cfg 0x02).isNone = true ∧
      s'.cfg.unknownOpcode = .fault := ⟨rfl, rfl, rfl, rfl, rfl, rfl, rfl, rfl, rfl⟩

theorem witness_UnknownOpcodeTick_peripheral :
    let s := { witPeripheral with
      pc := 0x4000, cfg := { Config.taken with removedOpcodes := (List.range 256).map (BitVec.ofNat 8) } }
    s.pending = 0 ∧ ∃ opc, (memRead8 (pcAddr s) (busReset s)).1 = opc ∧ descriptor s.cfg opc = none :=
  ⟨rfl, _, rfl, if_pos (by
    have h : ∀ opc : Byte, ((List.range 256).map (BitVec.ofNat 8)).contains opc = true := by decide
    exact h _)⟩

theorem witness_BusClockPopsTheLatestRecord :
    (busReset wit).bus.log = [] ∧ wit.bus.log = [] ++ [⟨.read, 0xFFFC, 0x0000, 0⟩] := by decide

theorem witness_EveryDeviceClockedOnce :
    wit.bus.wf = true ∧ wit.bus.devs[1]? ≠ none ∧ witPeripheral.bus.wf = true ∧ 1 ∈ witPeripheral.bus.order ∧
      witPeripheral.bus.devs[1]? = some ⟨0x4000, 0x0100, .peripheral 7 [0x01] true false⟩ := by decide

/-- The invariant holds, and a step completes: BRK from the empty RAM at reset, NOP from `wit`. -/
theorem witness_StepKeepsInvariant :
    (State.reset.Inv ∧ ∃ t, step State.reset = .next t) ∧ wit.bus.wf = true ∧ wit.bus.logOk = true ∧
      ∃ t, step wit = .next t :=
  ⟨⟨⟨by decide, by decide, fun _ => ⟨by decide, by decide, by decide⟩⟩, _, rfl⟩, by decide, by decide, _, rfl⟩

theorem witness_StepKeepsThePlatform : ∃ t, step wit = .next t := ⟨_, rfl⟩

/-- `pending` at its bound and at 0. -/
theorem witness_PendingNeverExceedsSeven :
    (wit.cfg.cycleOverrides = [] ∧ wit.pending ≤ 7) ∧ (∃ t, step wit = .next t) ∧
      { wit with pending := 7 }.pending ≤ 7 ∧ ∃ t, step { wit with pending := 7 } = .next t :=
  ⟨⟨rfl, by decide⟩, ⟨_, rfl⟩, by decide, _, rfl⟩

/-- An unknown opcode at a Fetch tick, a known one, and a Busy tick. -/
theorem witness_UnknownSeenIsSticky :
    (∃ t, step (harness Config.taken 0x0200 [0x02] [] 0 0 0 0 0xFF) = .next t) ∧ (∃ t, step wit = .next t) ∧
      ∃ t, step { wit with pending := 1, unknownSeen := true } = .next t := ⟨⟨_, rfl⟩, ⟨_, rfl⟩, _, rfl⟩

theorem witness_WrittenMachineNeverFaultsOnARead : wit.written = Written.all ∧ ∃ t, step wit = .next t := ⟨rfl, _, rfl⟩

/-- Each fault: a short of RTS and of an operand fetch, an unwritten register and an unwritten flag, an unknown opcode. -/
theorem witness_FaultsAreTheNamedOnes :
    (∃ m, step (shortRam Config.taken [0x60] 0xFF) = .fault (.shortPastDevice m)) ∧
      (∃ m, step witFetchPastDevice = .fault (.shortPastDevice m)) ∧
      (∃ m, step { harness Config.taken 0x0200 [0xAA] [] 0 0 0 0 0xFF with written := Written.none } =
        .fault (.unwrittenRead (.reg .a) m)) ∧
      (∃ m, step { harness Config.taken 0x0200 [0x90, 0x00] [] 0 0 0 0 0xFF with written := Written.none } =
        .fault (.unwrittenRead (.flag .c) m)) ∧
      ∃ m, step (harness { Config.taken with unknownOpcode := .fault } 0x0200 [0x02] [] 0 0 0 0 0xFF) =
        .fault (.unknownOpcode 0x02 0x0200 m) := ⟨⟨_, rfl⟩, ⟨_, rfl⟩, ⟨_, rfl⟩, ⟨_, rfl⟩, _, rfl⟩

/-- A writer and a non-writer of each flag, with P_STORE_SETS_NZ off and on. -/
theorem witness_FlagsHaveOnlyTheirWriters :
    (∃ t, exec .plp wit = .next t) ∧ (∃ t, exec .nop wit = .next t) ∧ (∃ t, exec (.staZp 0x10) wit = .next t) ∧
      (∃ t, exec (.staZp 0x10) (witWith { Config.taken with storeSetsNZ := true }) = .next t) ∧
      (∀ f ∈ Flag.all, Mnemonic.plp ∈ f.writers wit.cfg ∧ Mnemonic.nop ∉ f.writers wit.cfg ∧
        Mnemonic.sta ∉ f.writers wit.cfg) ∧
      Mnemonic.sta ∈ Flag.z.writers { Config.taken with storeSetsNZ := true } :=
  ⟨⟨_, rfl⟩, ⟨_, rfl⟩, ⟨_, rfl⟩, ⟨_, rfl⟩, by decide, by decide⟩

theorem witness_RegistersHaveOnlyTheirWriters :
    (∃ t, exec (.ldaImm 0x01) wit = .next t) ∧ (∃ t, exec .tax wit = .next t) ∧ (∃ t, exec .dey wit = .next t) ∧
      (∃ t, exec .aslAcc wit = .next t) ∧ (∃ t, exec (.aslZp 0x10) wit = .next t) ∧
      Reg.a.writtenBy (.ldaImm 0x01) = true ∧ Reg.x.writtenBy .tax = true ∧ Reg.a.writtenBy .tax = false ∧
      Reg.y.writtenBy .dey = true ∧ Reg.x.writtenBy .dey = false ∧ Reg.y.writtenBy .tax = false ∧
      Reg.a.writtenBy .aslAcc = true ∧ Reg.a.writtenBy (.aslZp 0x10) = false :=
  ⟨⟨_, rfl⟩, ⟨_, rfl⟩, ⟨_, rfl⟩, ⟨_, rfl⟩, ⟨_, rfl⟩, by decide⟩

theorem witness_OnlyStoresChangeMemory :
    (∃ t, exec (.ldaIndX 0x0F) wit = .next t) ∧ (Instr.ldaIndX 0x0F).storesMemory = false ∧
      (∃ t, exec .rti wit = .next t) ∧ Instr.rti.storesMemory = false ∧ (∃ t, exec .aslAcc wit = .next t) ∧
      Instr.aslAcc.storesMemory = false ∧ (∃ t, exec .nop wit = .next t ∧ t.bus.log = wit.bus.log) ∧
      ∃ t, exec (.staAbs 0x4000) witPeripheral = .next t :=
  ⟨⟨_, rfl⟩, by decide, ⟨_, rfl⟩, by decide, ⟨_, rfl⟩, by decide, ⟨_, rfl, rfl⟩, _, rfl⟩

theorem witness_SpAndPcHaveOnlyTheirWriters :
    (∃ t, exec (.incZp 0x10) wit = .next t) ∧ (Instr.incZp 0x10).writesSp = false ∧
      (Instr.incZp 0x10).transfersControl = false ∧ (∃ t, exec .pha wit = .next t) ∧
      Instr.pha.transfersControl = false ∧ (∃ t, exec (.jmpAbs 0) wit = .next t) ∧ (Instr.jmpAbs 0).writesSp = false :=
  ⟨⟨_, rfl⟩, by decide, by decide, ⟨_, rfl⟩, by decide, ⟨_, rfl⟩, by decide⟩

theorem witness_AddressLatchHoldsTheResolvedValue :
    (∃ t, exec .inx wit = .next t) ∧ Instr.inx.operand = none ∧ (∃ t, exec (.staIndY 0x10) wit = .next t) ∧
      (Instr.staIndY 0x10).operand = some (.indY 0x10) := ⟨⟨_, rfl⟩, rfl, ⟨_, rfl⟩, rfl⟩

/-- Each indexed mode; addresses 0x10000 and 0x1FFFF under `FLOAT`. -/
theorem witness_IndexedResolvers :
    (∀ c ∈ ([(.zpX 0xFF, .x), (.zpY 0xFF, .y), (.absX 0xFFFF, .x), (.absY 0xFFFF, .y)] : List (Operand × Reg)),
      wit.regWritten c.2 = true ∧
        c ∈ [(Operand.zpX 0xFF, Reg.x), (.zpY 0xFF, .y), (.absX 0xFFFF, .x), (.absY 0xFFFF, .y)]) ∧
    witFloat.bus.wf = true ∧ witFloat.cfg.eaOverflow = .float ∧ 0x10000 ≤ (0x10000#17).toNat ∧
    0x10000 ≤ (0x1FFFF#17).toNat := by decide

/-- A pointer at 0x0010 for each indirect mode: zz + X = 0x10 with the wrap, 0x0F + 1 without it; the last pointer of the
RAM, 0x7FFE; an indexed pointer at 0x0000 that wraps; a pointer held by a peripheral. -/
theorem witness_IndirectResolvers :
    ((wit.regWritten .x = true ∧ ∃ u, memRead16 0x0010 wit = .ok (0x0300, u)) ∧
      (0x0010#17).toNat = ((0x0F#8).toNat + wit.x.toNat) % 256) ∧
    ((∃ u, memRead16 0x0000 wit = .ok (0x0000, u)) ∧ (0x0000#17).toNat = ((0xFF#8).toNat + wit.x.toNat) % 256) ∧
    (witNoWrap.regWritten .x = true ∧ (∃ u, memRead16 0x0100 witNoWrap = .ok (0x0000, u)) ∧
      (0x0100#17).toNat = (0xFF#8).toNat + witNoWrap.x.toNat ∧ witNoWrap.cfg.zpIndexWrap ≠ .wrap8) ∧
    (wit.regWritten .y = true ∧ (∃ u, memRead16 ((0x10#8).setWidth 17) wit = .ok (0x0300, u)) ∧
      ∃ u, memRead16 ((0xFF#8).setWidth 17) wit = .ok (0x0000, u)) ∧
    (∃ u, memRead16 ((0x7FFE#16).setWidth 17) wit = .ok (0x0000, u)) ∧
    (∃ r, memRead16 ((0x4000#16).setWidth 17) witPeripheral = .ok r) ∧ wit.peek16 0x0010 = some 0x0300 :=
  ⟨⟨⟨rfl, _, rfl⟩, by decide⟩, ⟨⟨_, rfl⟩, by decide⟩, ⟨rfl, ⟨_, rfl⟩, by decide, by decide⟩, ⟨rfl, ⟨_, rfl⟩, _, rfl⟩,
    ⟨_, rfl⟩, ⟨_, rfl⟩, by decide⟩

/-- Each way a resolver faults. -/
theorem witness_ResolversCompleteExactlyWhenReady :
    resolve (.ind 0x7FFF) wit = .error (.shortPastDevice wit) ∧ resolve (.ind 0xFFFF) wit = .error (.shortPastDevice wit) ∧
      resolve (.absX 0) witUnwritten = .error (.unwrittenRead (.reg .x) witUnwritten) ∧
      (∃ m, resolve (.indY 0x10) witUnwritten = .error (.unwrittenRead (.reg .y) m)) ∧
      (Operand.ind 0x7FFE).ready wit = true ∧ (Operand.ind 0x7FFF).ready wit = false :=
  ⟨rfl, rfl, rfl, ⟨_, rfl⟩, by decide, by decide⟩

theorem witness_OperandAccess :
    (∃ v, resolve (.imm 0x80) wit = .ok v) ∧
      (∃ v, resolve (.indX 0x0F) wit = .ok v ∧ wit.peek v.value = some 0x81) ∧
      (∀ n, Operand.indX 0x0F ≠ .imm n) ∧
      ∃ v, resolve (.abs 0x4000) (shortRam Config.taken [] 0xFF) = .ok v ∧
        (shortRam Config.taken [] 0xFF).bus.deviceAt v.value = none :=
  ⟨⟨_, rfl⟩, ⟨_, rfl, by decide⟩, fun _ => by simp, _, rfl, rfl⟩

/-- The first and the last byte of the RAM. -/
theorem witness_RamReturnsTheByteWritten :
    wit.bus.wf = true ∧ wit.isRam 0x0000 = true ∧ wit.isRam 0x7FFF = true ∧ wit.isRam 0x8000 = false := by decide

/-- An unmapped address, one past 0xFFFF, and the first and last short of the ROM. -/
theorem witness_UnmappedReadsFloatAndDeadWritesDrop :
    (shortRam Config.taken [] 0xFF).bus.deviceAt 0x0200 = none ∧ wit.bus.deviceAt 0x10000 = none ∧
      wit.bus.deviceAt 0x8000 = some (1, ⟨0x8000, 0x8000, .rom [(0x7FFF, 0x90)]⟩) ∧
      wit.bus.deviceAt 0xFFFE = some (1, ⟨0x8000, 0x8000, .rom [(0x7FFF, 0x90)]⟩) ∧
      wit.bus.shortFits 0x8000 = true ∧ wit.bus.shortFits 0xFFFE = true ∧ wit.bus.shortFits 0xFFFF = false ∧
      witPeripheral.bus.deviceAt 0x4000 = some (1, ⟨0x4000, 0x0100, .peripheral 7 [0x01] true false⟩) ∧
      witPeripheral.bus.deviceAt 0x40FF = some (1, ⟨0x4000, 0x0100, .peripheral 7 [0x01] true false⟩) ∧
      witPeripheral.bus.shortFits 0x40FE = true ∧ witPeripheral.bus.shortFits 0x40FF = false :=
  ⟨rfl, rfl, rfl, rfl, rfl, rfl, rfl, rfl, rfl, rfl, rfl⟩

/-- The last short of the RAM. -/
theorem witness_ShortsAreLittleEndian :
    wit.bus.wf = true ∧ (memWrite16 0x7FFE 0x1234 wit).isOk = true ∧ wit.sameOwner 0x7FFE (0x7FFE + 1) ∧
      wit.isRam 0x7FFE = true ∧ wit.isRam (0x7FFE + 1) = true := ⟨by decide, by decide, by unfold State.sameOwner; decide, by decide, by decide⟩

/-- Either side of a device's last byte, and an unmapped address. -/
theorem witness_ShortPastItsDeviceFaults :
    (wit.bus.deviceAt 0x7FFF).map (fun p => p.2.base + p.2.size) = some 0x8000 ∧ 0x8000 ≤ (0x7FFF#17).toNat + 1 ∧
      (wit.bus.deviceAt 0x7FFE).map (fun p => p.2.base + p.2.size) = some 0x8000 ∧ (0x7FFE#17).toNat + 1 < 0x8000 ∧
      (wit.bus.deviceAt 0x10000).isNone = true := by decide

/-- The same at each instruction: a pointer at 0x7FFF and at 0xFF of a RAM that ends there, the stack shorts of JSR, BRK,
RTS and RTI around 0x01FF, a BRK vector at 0xFFFF, and an operand fetch at 0x7FFF. -/
theorem witness_ShortPastItsDeviceFaults_instructions :
    ((Instr.jmpInd 0x7FFF).operand = some (.ind 0x7FFF) ∧ (Operand.ind 0x7FFF).pointer wit = some 0x7FFF ∧
      wit.bus.shortFits 0x7FFF = false) ∧
    ((Instr.ldaIndX 0xFE).operand = some (.indX 0xFE) ∧ (Operand.indX 0xFE).pointer witZeroPage = some 0x00FF ∧
      witZeroPage.regWritten .x = true ∧ (Instr.ldaIndY 0xFF).operand = some (.indY 0xFF) ∧
      (Operand.indY 0xFF).pointer witZeroPage = some 0x00FF ∧ witZeroPage.bus.shortFits 0x00FF = false) ∧
    (shortRam Config.taken [] 0x01).bus.shortFits (stackAddr Config.taken (0x01 - 2)) = false ∧
    (shortRam Config.taken [] 0xFF).bus.shortFits (stackAddr Config.taken 0xFF) = false ∧
    (shortRam Config.taken [] 0xFE).bus.shortFits (stackAddr Config.taken (0xFE + 1)) = false ∧
    wit.bus.shortFits (stackAddr { Config.taken with brkVector := 0xFFFF } (wit.sp - 2)) = true ∧
    wit.bus.shortFits ((0xFFFF#16).setWidth 17) = false ∧
    witFetchPastDevice.pending = 0 ∧ (fetch8 (busReset witFetchPastDevice)).1 = 0x4C ∧
      (descriptor witFetchPastDevice.cfg 0x4C).isNone = false ∧ instrLength 0x4C = 3 ∧
      witFetchPastDevice.bus.shortFits ((witFetchPastDevice.pc + 1).setWidth 17) = false := by decide

/-- The status BRK pushes is readable beside that vector and that push. -/
theorem witness_ShortPastItsDeviceFaults_status :
    (witWith { Config.taken with brkVector := 0xFFFF }).statusReadable ∧ (shortRam Config.taken [] 0x01).statusReadable :=
  ⟨fun f _ => by cases f <;> decide, fun f _ => by cases f <;> decide⟩

/-- A device of 0x8000 bytes fits at 0x8000 and not at 0x8001; a range partly taken; single addresses 0xFFFF, taken and
free, and 0x10000. -/
theorem witness_FirstRegistrationWins :
    let b := construct ⟨0, 0x8000, .ram []⟩ Bus.powerOn
    b.devs[0]? = some ⟨0, 0x8000, .ram []⟩ ∧ 0x10000 < 0x8001 + 0x8000 ∧ 0x8000 + 0x8000 ≤ 0x10000 ∧
      0x10000 ≤ 0x10000 ∧ 0xFFFF < 0x10000 ∧ b.owner 0xFFFF = none ∧ wit.bus.owner 0xFFFF = some 1 ∧
      wit.bus.devs[1]? = some ⟨0x8000, 0x8000, .rom [(0x7FFF, 0x90)]⟩ ∧ 0x7000 + 0x8000 ≤ 0x10000 ∧
      wit.bus.owner 0x7000 = some 0 := by decide

/-- A full image, one byte more, a shorter one; a ROM, a RAM and a peripheral; a byte of the image at its address. -/
theorem witness_RomImageReadsBack :
    let b := construct ⟨0, 2, .rom [(1, 0x55)]⟩ Bus.powerOn
    b.devs[0]? = some ⟨0, 2, .rom [(1, 0x55)]⟩ ∧ ([0x12, 0x34] : List Byte).length ≤ 2 ∧
      2 < ([0x12, 0x34, 0x56] : List Byte).length ∧ ([0x12] : List Byte).length ≤ 2 ∧
      (construct ⟨0, 2, .ram [(1, 0x55)]⟩ Bus.powerOn).devs[0]? = some ⟨0, 2, .ram [(1, 0x55)]⟩ ∧
      Memory.wf [(1, 0x55)] = true ∧
      witPeripheral.bus.devs[1]? = some ⟨0x4000, 0x0100, .peripheral 7 [0x01] true false⟩ := by decide

theorem witness_RomImageReadsBack_address :
    let b := { Bus.powerOn with devs := [⟨0x8000, 2, .rom [(1, 0x55)]⟩], map := [⟨0x8000, 2, 0⟩], order := [0] }
    loadImage [] 0 [0x12, 0x34] b = .ok (b.setBody 0 (.rom [(0, 0x12), (1, 0x34)])) ∧
      ([0x12, 0x34] : List Byte)[1]? = some 0x34 ∧ b.owner (0x8001#17).toNat = some 0 ∧ (0x8001#17).toNat = 0x8000 + 1 ∧
      ∃ s : State, s.bus = b.setBody 0 (.rom [(0, 0x12), (1, 0x34)]) :=
  ⟨by decide, by decide, by decide, by decide, wit.setBus _, rfl⟩

/-- Every operand form a load has. -/
theorem witness_LoadResults :
    ∀ c ∈ ([(.ldaIndX 0x0F, .a, .indX 0x0F), (.ldaZp 0xFF, .a, .zp 0xFF), (.ldaImm 0x00, .a, .imm 0x00),
        (.ldaAbs 0xFFFF, .a, .abs 0xFFFF), (.ldaIndY 0xFF, .a, .indY 0xFF), (.ldaZpX 0xFF, .a, .zpX 0xFF),
        (.ldaAbsY 0xFFFF, .a, .absY 0xFFFF), (.ldaAbsX 0xFFFF, .a, .absX 0xFFFF), (.ldxZpY 0xFF, .x, .zpY 0xFF),
        (.ldyImm 0x80, .y, .imm 0x80)] : List (Instr × Reg × Operand)),
      (c.1.mnemonic, c.2.1) ∈ Mnemonic.loads ∧ c.1.operand = some c.2.2 ∧ c.2.2.ready wit = true := by decide

/-- A RAM address, a ROM address, and P_STORE_SETS_NZ on. -/
theorem witness_StoreResults :
    (∀ c ∈ ([(.staIndX 0x0F, .a, .indX 0x0F), (.staAbs 0x8000, .a, .abs 0x8000), (.stxZpY 0xFF, .x, .zpY 0xFF),
        (.styZp 0x00, .y, .zp 0x00)] : List (Instr × Reg × Operand)),
      (c.1.mnemonic, c.2.1) ∈ Mnemonic.stores ∧ c.1.operand = some c.2.2 ∧ c.2.2.ready wit = true ∧
        wit.regWritten c.2.1 = true) ∧ wit.bus.wf = true ∧
      (witWith { Config.taken with storeSetsNZ := true }).cfg.storeSetsNZ = true := by decide

theorem witness_TransferResults :
    (Instr.tya, Reg.y, Reg.a, 0x98#8) ∈ [(Instr.tax, Reg.a, Reg.x, 0xAA#8), (.tay, .a, .y, 0xA8#8), (.txa, .x, .a, 0x8A#8),
      (.tya, .y, .a, 0x98#8)] ∧ wit.regWritten .y = true ∧ wit.regWritten .x = true := by decide

theorem wit_status : wit.statusReadable := fun f _ => by cases f <;> decide

/-- The stack at SP = 0xFF and at SP = 0x00, where it wraps. -/
theorem witness_PushResults :
    wit.regWritten .a = true ∧ wit.statusReadable ∧ wit.bus.wf = true ∧ { wit with sp := 0x00 }.regWritten .a = true :=
  ⟨by decide, wit_status, by decide, by decide⟩

theorem witness_PushPullAsymmetry :
    wit.bus.wf = true ∧ wit.peek (stackAddr wit.cfg wit.sp) = some 0x00 ∧
      wit.isRam (stackAddr wit.cfg (wit.sp - 1)) = true ∧ wit.isRam (stackAddr wit.cfg (wit.sp - 2)) = true ∧
      wit.peek (stackAddr wit.cfg (wit.sp - 3)) = some 0x00 := by decide

/-- D clear, and D set under `BINARY`. -/
theorem witness_AddWithCarry :
    ((Instr.adcIndY 0x10).mnemonic = .adc ∧ (Instr.adcIndY 0x10).operand = some (.indY 0x10) ∧
      (Operand.indY 0x10).ready wit = true ∧ wit.flagWritten .d = true ∧ ¬ wit.decimalDraws ∧ wit.regWritten .a = true ∧
      wit.flagWritten .c = true) ∧
    ¬ { witWith { Config.taken with decimal := .binary } with p := 0x08 }.decimalDraws :=
  ⟨⟨rfl, rfl, by decide, by decide, fun h => absurd h.1 (by decide), by decide, by decide⟩,
    fun h => absurd h.2 (by decide)⟩

theorem witness_SubtractWithBorrow :
    (Instr.sbcAbsX 0xFFFF).mnemonic = .sbc ∧ (Instr.sbcAbsX 0xFFFF).operand = some (.absX 0xFFFF) ∧
      (Operand.absX 0xFFFF).ready wit = true ∧ wit.flagWritten .d = true ∧ ¬ wit.decimalDraws ∧
      wit.regWritten .a = true ∧ wit.flagWritten .c = true :=
  ⟨rfl, rfl, by decide, by decide, fun h => absurd h.1 (by decide), by decide, by decide⟩

theorem witness_DecimalAddAndSubtract :
    (Instr.adcImm 0x01).mnemonic ∈ [Mnemonic.adc, .sbc] ∧ (Instr.adcImm 0x01).operand = some (.imm 0x01) ∧
      (Instr.sbcIndX 0x0F).mnemonic ∈ [Mnemonic.adc, .sbc] ∧ (Instr.sbcIndX 0x0F).operand = some (.indX 0x0F) ∧
      (Operand.imm 0x01).ready { wit with p := 0x08 } = true ∧ (Operand.indX 0x0F).ready { wit with p := 0x08 } = true ∧
      { wit with p := 0x08 }.flagWritten .d = true ∧ { wit with p := 0x08 }.decimalDraws :=
  ⟨by decide, rfl, by decide, rfl, by decide, by decide, by decide, ⟨by decide, rfl⟩⟩

theorem witness_LogicResults :
    (∀ c ∈ ([(.andIndX 0x0F, .indX 0x0F), (.oraAbsY 0xFFFF, .absY 0xFFFF), (.eorImm 0xFF, .imm 0xFF)] :
        List (Instr × Operand)),
      c.1.mnemonic ∈ [Mnemonic.and, .ora, .eor] ∧ c.1.operand = some c.2 ∧ c.2.ready wit = true) ∧
      wit.regWritten .a = true := by decide

theorem witness_BitTestResults :
    (Instr.bitZp 0x10).mnemonic = .bit ∧ (Instr.bitZp 0x10).operand = some (.zp 0x10) ∧
      (Instr.bitAbs 0x0300).mnemonic = .bit ∧ (Instr.bitAbs 0x0300).operand = some (.abs 0x0300) ∧
      wit.regWritten .a = true := by decide

theorem witness_CompareResults :
    ∀ c ∈ ([(.cmpIndY 0x10, .a, .indY 0x10), (.cpxImm 0x01, .x, .imm 0x01), (.cpyAbs 0x0300, .y, .abs 0x0300)] :
        List (Instr × Reg × Operand)),
      (c.1.mnemonic, c.2.1) ∈ Mnemonic.compares ∧ c.1.operand = some c.2.2 ∧ c.2.2.ready wit = true ∧
        wit.regWritten c.2.1 = true := by decide

theorem witness_IncrementAndDecrementMemory :
    (∀ c ∈ ([(.incZpX 0xFF, .zpX 0xFF), (.decAbsX 0xFFFF, .absX 0xFFFF), (.incAbs 0x8000, .abs 0x8000)] :
        List (Instr × Operand)),
      c.1.mnemonic ∈ [Mnemonic.inc, .dec] ∧ c.1.operand = some c.2 ∧ c.2.ready wit = true) ∧ wit.bus.wf = true := by decide

theorem witness_IncrementAndDecrementRegisters :
    (Instr.dey, Reg.y, 0x88#8, 255) ∈ [(Instr.inx, Reg.x, 0xE8#8, 1), (.iny, .y, 0xC8#8, 1), (.dex, .x, 0xCA#8, 255),
      (.dey, .y, 0x88#8, 255)] ∧ wit.regWritten .y = true ∧ wit.regWritten .x = true := by decide

theorem witness_AccumulatorShifts :
    (∀ i ∈ [Instr.aslAcc, .lsrAcc, .rolAcc, .rorAcc], i.mnemonic ∈ Mnemonic.shifts ∧ i.operand = none) ∧
      wit.regWritten .a = true ∧ (∀ mn, wit.carryReadable mn) ∧ ({ wit with written := { Written.all with p := 0xFE } } :
        State).carryReadable .asl :=
  ⟨by decide, by decide, fun _ _ => by decide, fun h => by rcases h with h | h <;> cases h⟩

theorem witness_MemoryShifts :
    (∀ c ∈ ([(.aslZp 0x10, .zp 0x10), (.lsrAbs 0x0300, .abs 0x0300), (.rolZpX 0xFF, .zpX 0xFF),
        (.rorAbsX 0xFFFF, .absX 0xFFFF)] : List (Instr × Operand)),
      c.1.mnemonic ∈ Mnemonic.shifts ∧ c.1.operand = some c.2 ∧ c.2.ready wit = true) ∧
      (∀ mn, wit.carryReadable mn) ∧ wit.bus.wf = true := ⟨by decide, fun _ _ => by decide, by decide⟩

theorem witness_JumpResults :
    wit.bus.shortFits ((0x10FF#16).setWidth 17) = true ∧ wit.bus.shortFits ((0x7FFE#16).setWidth 17) = true ∧
      wit.bus.shortFits ((0x7FFF#16).setWidth 17) = false := by decide

/-- The stack at SP = 0xFF, and at SP = 0x01, where its short straddles 0x01FF and 0x0200. -/
theorem witness_JumpToSubroutine :
    wit.bus.shortFits (stackAddr wit.cfg (wit.sp - 2)) = true ∧ wit.bus.wf = true ∧
      wit.bus.shortFits (stackAddr wit.cfg (0x01 - 2)) = true := by decide

theorem witness_ReturnFromSubroutine :
    wit.bus.shortFits (stackAddr wit.cfg wit.sp) = true ∧ wit.bus.wf = true ∧
      wit.isRam (stackAddr wit.cfg (wit.sp - 2)) = true ∧ wit.isRam (stackAddr wit.cfg (wit.sp - 2) + 1) = true ∧
      wit.sameOwner (stackAddr wit.cfg (wit.sp - 2)) (stackAddr wit.cfg (wit.sp - 2) + 1) ∧
      ∃ t, exec (.jsr 0x0300) wit = .next t ∧ ∃ t' : State, t'.cfg = t.cfg ∧ t'.sp = t.sp ∧
        t'.peek16 (stackAddr wit.cfg (wit.sp - 2)) = t.peek16 (stackAddr wit.cfg (wit.sp - 2)) :=
  ⟨by decide, by decide, by decide, by decide, rfl, _, rfl, _, rfl, rfl, rfl⟩

/-- Each branch, taken and not taken: `wit` has C set and Z, V and N clear. -/
theorem witness_BranchResults :
    (∀ c ∈ ([(.bpl 0x05, .n, false, .rel 0x05), (.bmi 0x80, .n, true, .rel 0x80), (.bvc 0xFF, .v, false, .rel 0xFF),
        (.bvs 0x00, .v, true, .rel 0x00), (.bcc 0x7F, .c, false, .rel 0x7F), (.bcs 0x7F, .c, true, .rel 0x7F),
        (.bne 0xFB, .z, false, .rel 0xFB), (.beq 0xFB, .z, true, .rel 0xFB)] : List (Instr × Flag × Bool × Operand)),
      (c.1.mnemonic, c.2.1, c.2.2.1) ∈ Mnemonic.branches ∧ c.1.operand = some c.2.2.2 ∧
        wit.flagWritten c.2.1 = true) ∧ wit.flag .c = true ∧ wit.flag .z ≠ true ∧ wit.flag .v ≠ true ∧
      wit.flag .n ≠ true := by decide

theorem witness_BranchTargets :
    Config.taken.branchMode = .orZext8 ∧ ({ Config.taken with branchMode := .orSext16 } : Config).branchMode = .orSext16 ∧
      ({ Config.taken with branchMode := .addSigned } : Config).branchMode = .addSigned := by decide

theorem witness_BreakEntry :
    wit.bus.shortFits (stackAddr wit.cfg (wit.sp - 2)) = true ∧ wit.statusReadable ∧
      wit.bus.shortFits (wit.cfg.brkVector.setWidth 17) = true ∧ wit.bus.wf = true :=
  ⟨by decide, wit_status, by decide, by decide⟩

theorem witness_ReturnFromInterrupt :
    wit.bus.shortFits (stackAddr wit.cfg (wit.sp + 1)) = true ∧ wit.bus.wf = true ∧
      wit.isRam (stackAddr wit.cfg (wit.sp - 2)) = true ∧ wit.isRam (stackAddr wit.cfg (wit.sp - 2) + 1) = true ∧
      wit.sameOwner (stackAddr wit.cfg (wit.sp - 2)) (stackAddr wit.cfg (wit.sp - 2) + 1) ∧
      wit.isRam (stackAddr wit.cfg (wit.sp - 3)) = true ∧ ∃ t, exec .brk wit = .next t ∧ ∃ t' : State, t'.cfg = t.cfg ∧
        t'.sp = t.sp ∧ t'.peek (stackAddr wit.cfg (wit.sp - 3)) = t.peek (stackAddr wit.cfg (wit.sp - 3)) ∧
        t'.peek16 (stackAddr wit.cfg (wit.sp - 2)) = t.peek16 (stackAddr wit.cfg (wit.sp - 2)) :=
  ⟨by decide, by decide, by decide, by decide, rfl, by decide, _, rfl, _, rfl, rfl, rfl, rfl⟩

theorem witness_FlagInstructions :
    (Instr.clv, Flag.v, false, 0xB8#8) ∈ [(Instr.clc, Flag.c, false, 0x18#8), (.sec, .c, true, 0x38#8),
      (.cli, .i, false, 0x58#8), (.sei, .i, true, 0x78#8), (.cld, .d, false, 0xD8#8), (.sed, .d, true, 0xF8#8),
      (.clv, .v, false, 0xB8#8)] := by decide

/-- Nothing written; D written while A is not, and A and D while C is not, for ADC; an unwritten index of each kind; the
bits of P that PHP and BRK push. -/
theorem witness_UnwrittenSourcesFault :
    (∀ r ∈ [Reg.a, .x, .y], witUnwritten.regWritten r = false) ∧ witUnwritten.flagWritten .c = false ∧
      (Operand.abs 0x0300).ready witUnwritten = true ∧ (Instr.staAbs 0x0300).operand = some (.abs 0x0300) ∧
      (Instr.bitAbs 0x0300).operand = some (.abs 0x0300) ∧ (Instr.adcImm 1).operand = some (.imm 1) ∧
      (Operand.imm 1).ready witUnwritten = true ∧ witUnwritten.flagWritten .d = false ∧
      witOnlyD.flagWritten .d = true ∧ ¬ witOnlyD.decimalDraws ∧ witOnlyD.regWritten .a = false :=
  ⟨by decide, by decide, by decide, rfl, rfl, rfl, by decide, by decide, by decide, fun h => absurd h.1 (by decide),
    by decide⟩

theorem witness_UnwrittenSourcesFault_carry :
    let s := { wit with written := { Written.all with p := 0xFE } }
    (Instr.sbcImm 1).operand = some (.imm 1) ∧ (Operand.imm 1).ready s = true ∧ s.flagWritten .d = true ∧
      ¬ s.decimalDraws ∧ s.regWritten .a = true ∧ s.flagWritten .c = false ∧
      (Instr.rolAbs 0x0300).operand = some (.abs 0x0300) ∧ (Instr.rolAbs 0x0300).mnemonic ∈ [Mnemonic.rol, .ror] ∧
      (Operand.abs 0x0300).ready s = true :=
  ⟨rfl, by decide, by decide, fun h => absurd h.1 (by decide), by decide, by decide, rfl, by decide, by decide⟩

theorem witness_UnwrittenSourcesFault_index :
    (Instr.ldaAbsX 0xFFFF).operand = some (.absX 0xFFFF) ∧ (Operand.absX 0xFFFF).index = some .x ∧
      (Instr.ldxZpY 0xFF).operand = some (.zpY 0xFF) ∧ (Operand.zpY 0xFF).index = some .y ∧
      witUnwritten.regWritten .x = false ∧ witUnwritten.regWritten .y = false ∧
      (Instr.staIndY 0x10).operand = some (.indY 0x10) ∧
      ∃ u, memRead16 ((0x10#8).setWidth 17) witUnwritten = .ok (0x0300, u) :=
  ⟨rfl, rfl, rfl, rfl, rfl, rfl, rfl, _, rfl⟩

theorem witness_UnwrittenSourcesFault_status :
    ¬ witUnwritten.statusReadable := fun h => absurd (h .c (by decide)) (by decide)

/-- A vector in ROM, one that is unmapped, one whose second byte is past its device, one in a peripheral, and both
settings of P_REG_INIT. -/
theorem witness_ResetProcedure :
    wit.bus.shortFits (Config.taken.resetVector.setWidth 17) = true ∧
      wit.peek16 (Config.taken.resetVector.setWidth 17) = some 0x0000 ∧
      Bus.powerOn.deviceAt (Config.taken.resetVector.setWidth 17) = none ∧
      wit.bus.shortFits (({ Config.taken with resetVector := 0xFFFF } : Config).resetVector.setWidth 17) = false ∧
      witPeripheral.bus.deviceAt (({ Config.taken with resetVector := 0x40FE } : Config).resetVector.setWidth 17) =
        some (1, ⟨0x4000, 0x0100, .peripheral 7 [0x01] true false⟩) ∧
      witPeripheral.bus.shortFits (({ Config.taken with resetVector := 0x40FE } : Config).resetVector.setWidth 17) =
        true ∧
      ({ Config.taken with regInit := .unwritten } : Config).regInit = .unwritten ∧
      Config.taken.regInit = .values 0 0 0 0 := by decide

/-- Reset changes no device's own state, a peripheral that owns the vector included (70_reset_and_hazards.md R331). -/
theorem test_reset_keeps_peripheral :
    ∃ t, launch { Config.taken with resetVector := 0x40FE } witPeripheral.bus = .next t ∧
      t.bus.devs[1]? = some ⟨0x4000, 0x0100, .peripheral 7 [0x01] true false⟩ := ⟨_, rfl, rfl⟩

end Sys2Proof.Tests
end

section
/-! The launch: the machine before the vector read, the launch as that read's result, and the standard platform
(70_reset_and_hazards.md R330, R331, R333). -/

namespace Sys2Proof.Machine

/-- The machine `launch` has before it reads the reset vector (70_reset_and_hazards.md R330). -/
def preVector (cfg : Config) (b : Bus) : State :=
  initRegs cfg.regInit {
    cfg := cfg, a := 0#8, x := 0#8, y := 0#8, sp := cfg.spReset, pc := 0#16, p := 0#8, written := Written.none
    pending := 0, opcode := none, addrLatch := 0#17, dataLatch := 0#16, cyclesTotal := none, unknownSeen := false
    bus := b, draws := 0 }

@[simp] theorem preVector_bus (cfg : Config) (b : Bus) : (preVector cfg b).bus = b := by
  unfold preVector
  cases cfg.regInit <;> rfl

/-- A launch whose reset vector can be seen in the platform adds the vector's value to PC and its record to the log, and
nothing else, to the machine it prepared. -/
theorem launch_of_peek16 {cfg : Config} {b : Bus} {w : Word}
    (h : (preVector cfg b).peek16 (cfg.resetVector.setWidth 17) = some w) :
    launch cfg b = .next (((preVector cfg b).record .read (cfg.resetVector.setWidth 17) w).setPc w) := by
  have hread := memRead16_of_peek16 h
  dsimp only [launch]
  rw [show initRegs cfg.regInit _ = preVector cfg b from rfl, hread]
  simp [State.record, State.setBus, Bus.append]

/-- The bus of the platform of 95_test_vectors.md section 2, with no image loaded and nothing logged (log 2, log 3). -/
def standardBus : Bus where
  devs := [⟨0x0000, 0x8000, .ram []⟩, ⟨0x8000, 0x8000, .rom []⟩]
  map := [⟨0x0000, 0x8000, 0⟩, ⟨0x8000, 0x8000, 1⟩]
  order := [0, 1]
  log := []
  seq := 0
  lastAddress := 0#17
  lastData := 0#16

theorem standardPlatform_eq : standardPlatform = .ok standardBus := by decide

/-- The vector of the empty ROM is 0x0000 (log 3). -/
theorem peek16_resetVector_standardBus :
    (preVector Config.taken standardBus).peek16 (Config.taken.resetVector.setWidth 17) = some 0x0000#16 := by decide

theorem launch_standardBus : launch Config.taken standardBus = .next State.reset := by
  rw [launch_of_peek16 peek16_resetVector_standardBus]
  rfl

/-- Settles O60: registration assembles `standardBus`, whose vector reads 0x0000, so the launch prepares `State.reset`. -/
theorem resetStateIsTheLaunch : Obligations.ResetStateIsTheLaunch :=
  ⟨⟨standardBus, standardPlatform_eq, launch_standardBus⟩, rfl, rfl, rfl, rfl, rfl, rfl, rfl⟩

end Sys2Proof.Machine
end

section
/-! The bound of `pending`: the cost column of the table, and what each shape of instruction charges (10_state.md R30). -/

namespace Sys2Proof.Machine

/-- The mnemonics whose operation adds the page-crossing penalty to its cost (30_encoding.md R118). -/
def penalizedReads : List Mnemonic := [.lda, .ldx, .ldy, .adc, .sbc, .and, .ora, .eor, .cmp, .cpx, .cpy]

/-- A row whose cost is at most 7 with the one cycle a page crossing may add. -/
def costBounded (r : Row) : Bool :=
  decide (r.cost ≤ 7) && (decide (r.mnemonic ∉ penalizedReads) || decide (r.cost ≤ 6))

/-- The cost column of 30_encoding.md R121, read row by row. -/
theorem opcodeRows_costBounded : ∀ k < 16, (opcodeRows k).all costBounded = true := by decide

theorem rowOf?_costBounded {opc : Byte} {r : Row} (h : rowOf? opc = some r) : costBounded r = true :=
  List.all_eq_true.1 (opcodeRows_costBounded _ (by have := opc.isLt; omega)) r (List.mem_of_find?_eq_some h)

theorem baseCost_le_seven {cfg : Config} (h : cfg.cycleOverrides = []) (i : Instr) : baseCost cfg i.opcode ≤ 7 := by
  obtain ⟨r, hr, -⟩ := rowOf?_opcode i
  have hb := rowOf?_costBounded hr
  simp only [costBounded, Bool.and_eq_true, decide_eq_true_eq] at hb
  rw [baseCost_of_table h hr]
  exact hb.1

/-- A penalized operation has a base cost of at most 6, so its cost with the penalty is at most 7. -/
theorem readCost_le_seven {cfg : Config} {i : Instr} (h : cfg.cycleOverrides = []) (hi : i.mnemonic ∈ penalizedReads)
    (crossed : Bool) : readCost cfg i.opcode crossed ≤ 7 := by
  obtain ⟨r, hr, -, hm, -⟩ := rowOf?_opcode i
  have hb := rowOf?_costBounded hr
  simp only [costBounded, hm, hi, not_true, decide_false, Bool.false_or, Bool.and_eq_true, decide_eq_true_eq] at hb
  rw [readCost_eq, baseCost_of_table h hr]
  split <;> omega

theorem exec_pending_le_seven {i : Instr} {s t : State} (hc : s.cfg.cycleOverrides = []) (h : exec i s = .next t) :
    t.pending ≤ 7 := by
  have base := baseCost_le_seven hc i
  have read := readCost_le_seven (i := i) hc
  have fst {l : List (Mnemonic × Reg)} (hl : l.map Prod.fst ⊆ penalizedReads) {r : Reg} (hm : (i.mnemonic, r) ∈ l) :
      i.mnemonic ∈ penalizedReads := hl (List.mem_map_of_mem hm)
  have adds : [Mnemonic.adc, .sbc] ⊆ penalizedReads := by decide
  have logics : [Mnemonic.and, .ora, .eor] ⊆ penalizedReads := by decide
  cases exec_completed h with
  | load r o v hm _ _ ht => subst ht; exact read (fst (by decide) hm) _
  | decimal o v hm _ _ _ _ ht => subst ht; exact read (adds hm) _
  | arith f o v hm _ _ _ _ _ _ ht => subst ht; exact read (adds hm) _
  | logic f o v hm _ _ _ ht => subst ht; exact read (logics hm) _
  | compare r o v hm _ _ _ ht => subst ht; exact read (fst (by decide) hm) _
  | branch f on o v _ _ _ _ ht => rcases ht with rfl | rfl | rfl <;> simp
  | _ => subst_vars; exact base

/-! ## What a tick keeps of the core -/

@[simp] theorem opcodeFetched_cfg (s : State) : (opcodeFetched s).cfg = s.cfg :=
  (opcodeFetched_effect s).1.machine.cfg

@[simp] theorem opcodeFetched_pending (s : State) : (opcodeFetched s).pending = s.pending :=
  (memRead8_effect _ (busReset s)).core.pending

@[simp] theorem tickTail_cfg (s : State) : (tickTail s).cfg = s.cfg := (tickTail_effect s).1.cfg

@[simp] theorem tickTail_pending (s : State) : (tickTail s).pending = s.pending := (tickTail_effect s).1.pending

@[simp] theorem tickTail_written (s : State) : (tickTail s).written = s.written := (tickTail_effect s).1.written

theorem cpuClock_cfg {s t : State} (h : cpuClock s = .next t) : t.cfg = s.cfg := by
  rcases cpuClock_next h with ⟨-, rfl⟩ | ⟨-, -, -, rfl⟩ | ⟨-, row, -, i, u, -, hu, he⟩
  · rfl
  · exact opcodeFetched_cfg s
  · rw [(exec_evolves he).machine.cfg, hu.machine.cfg, opcodeFetched_cfg]

/-- Settles O14: a Busy tick counts down, an unknown opcode leaves 0, and an instruction's cost is at most 7. -/
theorem pendingNeverExceedsSeven : Obligations.PendingNeverExceedsSeven := by
  intro s t ⟨hc, hp⟩ h
  obtain ⟨u, hu, rfl⟩ := step_next h
  have hcu : u.cfg = s.cfg := cpuClock_cfg hu
  refine ⟨by rw [tickTail_cfg, hcu, hc], ?_⟩
  rw [tickTail_pending]
  rcases cpuClock_next hu with ⟨-, rfl⟩ | ⟨h0, -, -, rfl⟩ | ⟨-, row, -, i, v, -, hv, he⟩
  · exact (Nat.sub_le _ _).trans hp
  · exact (opcodeFetched_pending s).trans_le hp
  · exact exec_pending_le_seven (by rw [hv.machine.cfg, opcodeFetched_cfg, hc]) he

end Sys2Proof.Machine
end

section
/-! Faults of a tick: which they are and when they come, and the written marks a tick keeps (10_state.md R37,
60_exceptions.md R300, R311). -/

namespace Sys2Proof.Machine

theorem opcodeFetched_shortFits (s : State) (a : BusAddr) : (opcodeFetched s).bus.shortFits a = s.bus.shortFits a :=
  (opcodeFetched_effect s).1.shortFits a

/-- What came after the opcode fetch has added records behind the one of the fetch. -/
theorem log_after_opcodeFetched {s t : State} (h : Evolves (opcodeFetched s) t) :
    ∃ l, t.bus.log = ⟨.read, pcAddr s, (fetch8 (busReset s)).1.setWidth 16, 0⟩ :: l := by
  obtain ⟨l, hl, -⟩ := h.log
  exact ⟨l, by rw [hl, opcodeFetched_log, List.singleton_append]⟩

theorem keepsRegs_nil_trans {s t u : State} (h : keepsRegs [] s t) (h' : keepsRegs [] t u) : keepsRegs [] s u :=
  fun r hr => ⟨(h' r hr).1.trans (h r hr).1, (h' r hr).2.trans (h r hr).2⟩

theorem keepsFlags_nil_trans {s t u : State} (h : keepsFlags [] s t) (h' : keepsFlags [] t u) : keepsFlags [] s u :=
  fun g hg => ⟨(h' g hg).1.trans (h g hg).1, (h' g hg).2.trans (h g hg).2⟩

theorem cpuClock_ne_refused (s : State) (r : Refusal) : cpuClock s ≠ .refused r := by
  unfold cpuClock
  split
  · split
    · simp
    · exact outcome_ne_refused _ _
    · exact exec_ne_refused _ _ _
  · simp

theorem step_ne_refused (s : State) (r : Refusal) : step s ≠ .refused r := by
  unfold step
  split
  · simp
  · simp
  · exact absurd ‹_› (cpuClock_ne_refused s _)

/-- Settles O17: the faults of the fetch are read off `cpuClock_fault`, those of the instruction off `exec_fault`, whose
conditions on the state after the fetch are the same on the state the tick started in. -/
theorem faultsAreTheNamedOnes : Obligations.FaultsAreTheNamedOnes := by
  refine fun s => ⟨step_ne_refused s, fun f h => ?_⟩
  obtain ⟨hp, hcase⟩ := cpuClock_fault (step_fault h)
  have hfetched := (opcodeFetched_keeps s).1
  rcases hcase with ⟨rfl, hlen, hfit⟩ | ⟨rfl, hpolicy, hdesc⟩ | ⟨i, u, hi, hu, hregs, hflags, he⟩
  · exact ⟨hp, hfetched, ⟨[], opcodeFetched_log s⟩, .inl ⟨_, _, rfl, hfit, .inl ⟨hlen, rfl⟩⟩⟩
  · exact ⟨hp, hfetched, ⟨[], opcodeFetched_log s⟩, .inr (.inr (.inr ⟨_, rfl, hpolicy, hdesc⟩))⟩
  · obtain ⟨hev, hkeep, hcause⟩ := exec_fault he
    refine ⟨hp, keepsRegs_nil_trans hregs hkeep, log_after_opcodeFetched (hu.trans hev), ?_⟩
    rcases hcause with ⟨m, a, ha, rfl, hfit⟩ | ⟨r, m, rfl, hw, hk⟩ | ⟨g, m, rfl, hw, hk⟩
    · rw [hu.shortFits, opcodeFetched_shortFits] at hfit
      exact .inl ⟨m, a, rfl, hfit, .inr ⟨i, u, hi, ha⟩⟩
    · rw [(hregs r List.not_mem_nil).2] at hw
      exact .inr (.inl ⟨r, m, rfl, hw, keepsFlags_nil_trans hflags hk⟩)
    · rw [(hflags g List.not_mem_nil).2] at hw
      exact .inr (.inr (.inl ⟨g, m, rfl, hw, keepsFlags_nil_trans hflags hk⟩))

/-! ## Written marks -/

theorem flagsWritten_iff (s : State) : s.written.p = 0xFF#8 ↔ ∀ f, s.flagWritten f = true := by
  constructor
  · intro h f
    cases f <;> simp [State.flagWritten, h, Flag.bit]
  · intro h
    refine BitVec.eq_of_getLsbD_eq fun k hk => ?_
    interval_cases k
    exacts [h .c, h .z, h .i, h .d, h .b, h .u, h .v, h .n]

/-- Every mark is set exactly when each register's and each flag's is (10_state.md R37). -/
theorem written_eq_all_iff (s : State) :
    s.written = Written.all ↔ (∀ r, s.regWritten r = true) ∧ ∀ f, s.flagWritten f = true := by
  rw [← flagsWritten_iff]
  constructor
  · intro h
    exact ⟨fun r => by cases r <;> simp [State.regWritten, h, Written.all], by rw [h]; rfl⟩
  · rintro ⟨hr, hp⟩
    have ha : s.written.a = true := hr .a
    have hx : s.written.x = true := hr .x
    have hy : s.written.y = true := hr .y
    rw [show s.written = ⟨s.written.a, s.written.x, s.written.y, s.written.p⟩ from rfl, ha, hx, hy, hp]
    rfl

theorem Evolves.written_all {s t : State} (h : Evolves s t) (hs : s.written = Written.all) : t.written = Written.all := by
  obtain ⟨hr, hf⟩ := (written_eq_all_iff s).1 hs
  exact (written_eq_all_iff t).2 ⟨fun r => h.regMarks r (hr r), fun f => h.flagMarks f (hf f)⟩

theorem cpuClock_written_all {s t : State} (h : cpuClock s = .next t) (hs : s.written = Written.all) :
    t.written = Written.all := by
  have hfetched : (opcodeFetched s).written = Written.all := (opcodeFetched_effect s).2.2.1.trans hs
  rcases cpuClock_next h with ⟨-, rfl⟩ | ⟨-, -, -, rfl⟩ | ⟨-, row, -, i, u, -, hu, he⟩
  · exact hs
  · exact hfetched
  · exact (hu.trans (exec_evolves he)).written_all hfetched

/-- Settles O16: no part of a tick clears a mark, and O17 says that a fault on a read names one that is not set. -/
theorem writtenMachineNeverFaultsOnARead : Obligations.WrittenMachineNeverFaultsOnARead := by
  intro s hs
  obtain ⟨hr, hf⟩ := (written_eq_all_iff s).1 hs
  refine ⟨fun t h => ?_, fun n m h => ?_⟩
  · obtain ⟨u, hu, rfl⟩ := step_next h
    rw [tickTail_written]
    exact cpuClock_written_all hu hs
  · obtain ⟨-, -, -, hcause⟩ := (faultsAreTheNamedOnes s).2 _ h
    rcases hcause with ⟨_, _, he, -⟩ | ⟨r, _, -, hw, -⟩ | ⟨g, _, -, hw, -⟩ | ⟨_, he, -⟩
    · cases he
    · exact absurd (hr r) (by simp [hw])
    · exact absurd (hf g) (by simp [hw])
    · cases he

end Sys2Proof.Machine
end

section
/-! When a resolver completes, and how it faults when it does not (10_state.md R37, 20_memory.md R65). -/

namespace Sys2Proof.Machine

/-- A resolver that completes has its index written and its pointer fitting its device. -/
theorem ready_of_resolve {o : Operand} {s : State} {v : Resolved} (h : resolve o s = .ok v) : o.ready s = true := by
  cases o <;> simp only [resolve, readPtr, Result.bind_ok, Result.pure_ok, Except.ok.injEq] at h <;>
    simp only [Operand.ready, Bool.and_eq_true]
  case zpX | zpY | absX | absY => obtain ⟨i, hi, -⟩ := h; exact (readReg_ok hi).1
  case indX =>
    obtain ⟨x, hx, r, hr, -⟩ := h
    obtain ⟨hw, rfl⟩ := readReg_ok hx
    exact ⟨hw, (memRead16_ok_iff _ s).1 ⟨r, hr⟩⟩
  case indY =>
    obtain ⟨r, hr, y, hy, -⟩ := h
    exact ⟨((memRead16_accessed hr).1.core.regWritten .y).symm.trans (readReg_ok hy).1, (memRead16_ok_iff _ s).1 ⟨r, hr⟩⟩
  case ind => obtain ⟨r, hr, -⟩ := h; exact (memRead16_ok_iff _ s).1 ⟨r, hr⟩

theorem resolve_ok_iff (o : Operand) (s : State) : (∃ v, resolve o s = .ok v) ↔ o.ready s = true :=
  ⟨fun ⟨_, h⟩ => ready_of_resolve h, resolve_of_ready⟩

/-- Settles O26, from when a resolver completes and what its fault is. -/
theorem resolversCompleteExactlyWhenReady : Obligations.ResolversCompleteExactlyWhenReady := by
  refine fun o s => ⟨resolve_ok_iff o s, fun f h => ?_⟩
  rcases resolve_error h with ⟨p, hp, hf, hfit⟩ | hindex
  · exact .inl ⟨p, hp, hfit, hf⟩
  · exact .inr hindex

end Sys2Proof.Machine
end

section
/-! Reset: the launch from the machine before the vector read (70_reset_and_hazards.md R330 to R332). -/

namespace Sys2Proof.Machine

/-- The launch is the short read of the reset vector, with every device put back as it was and PC set to the short read
(70_reset_and_hazards.md R330, R331; log 26). -/
theorem launch_of_read {cfg : Config} {b : Bus} {r : Word × State}
    (h : memRead16 (cfg.resetVector.setWidth 17) (preVector cfg b) = .ok r) :
    launch cfg b = .next ((r.2.setBus { r.2.bus with devs := b.devs }).setPc r.1) := by
  dsimp only [launch]
  rw [show initRegs cfg.regInit _ = preVector cfg b from rfl, h]

theorem launch_of_not_fits {cfg : Config} {b : Bus} (h : b.shortFits (cfg.resetVector.setWidth 17) = false) :
    launch cfg b = .fault (.shortPastDevice (preVector cfg b)) := by
  have hread := memRead16_of_not_fits (s := preVector cfg b) ((preVector_bus cfg b).symm ▸ h)
  dsimp only [launch]
  rw [show initRegs cfg.regInit _ = preVector cfg b from rfl, hread]

theorem memRead16_of_unmapped {a : BusAddr} {s : State} (h : s.bus.deviceAt a = none) :
    memRead16 a s = .ok (0xFFFF#16, s.record .read a 0xFFFF#16) := by
  simp [memRead16, h]

theorem memRead16_peripheral {a : BusAddr} {s : State} {d : Nat} {dev : Device} {u : Nat} {own : List Byte}
    {before after : Bool} {r : Word × State} (h : s.bus.deviceAt a = some (d, dev))
    (hb : dev.body = .peripheral u own before after) (hr : memRead16 a s = .ok r) :
    r.1 = (Config.peripheralRead16 u own a).1 := by
  unfold memRead16 at hr
  rw [h] at hr
  dsimp only at hr
  split at hr
  · cases hr
    simp [deviceRead16, hb]
  · cases hr

theorem State.peek16_of_bus {s t : State} (h : t.bus = s.bus) (a : BusAddr) : t.peek16 a = s.peek16 a := by
  unfold State.peek16
  rw [h]

/-- The core the launch prepares (10_state.md R37; 70_reset_and_hazards.md R330). -/
structure Prepared (c : Config) (s : State) : Prop where
  cfg : s.cfg = c
  sp : s.sp = c.spReset
  pending : s.pending = 0
  addrLatch : s.addrLatch = 0#17
  dataLatch : s.dataLatch = 0#16
  opcode : s.opcode = none
  cyclesTotal : s.cyclesTotal = none
  unknownSeen : s.unknownSeen = false
  unwritten : c.regInit = .unwritten → s.written = Written.none
  values : ∀ a x y p, c.regInit = .values a x y p → s.a = a ∧ s.x = x ∧ s.y = y ∧ s.p = p ∧ s.written = Written.all

theorem preVector_prepared (cfg : Config) (b : Bus) : Prepared cfg (preVector cfg b) := by
  unfold preVector
  cases hi : cfg.regInit with
  | unwritten =>
    exact ⟨rfl, rfl, rfl, rfl, rfl, rfl, rfl, rfl, fun _ => rfl, fun _ _ _ _ h => by cases hi.symm.trans h⟩
  | values a x y p =>
    refine ⟨rfl, rfl, rfl, rfl, rfl, rfl, rfl, rfl, fun h => (by cases hi.symm.trans h), fun _ _ _ _ h => ?_⟩
    cases hi.symm.trans h
    exact ⟨rfl, rfl, rfl, rfl, rfl⟩

/-- Settles O59: the one short read of the vector decides between the fault and the launch, and keeps the core that was
prepared and all of the bus but its log. -/
theorem resetProcedure : Obligations.ResetProcedure := by
  refine fun cfg b => ⟨fun h => ⟨_, launch_of_not_fits h, preVector_bus cfg b⟩, fun h => ?_⟩
  obtain ⟨r, hr⟩ := memRead16_of_fits (s := preVector cfg b) ((preVector_bus cfg b).symm ▸ h)
  obtain ⟨e, -⟩ := memRead16_accessed hr
  have hcore := e.core
  have hp := preVector_prepared cfg b
  have hb := preVector_bus cfg b
  refine ⟨_, launch_of_read hr, hcore.cfg.trans hp.cfg, hcore.sp.trans hp.sp, hcore.pending.trans hp.pending,
    e.latch.trans hp.addrLatch, hcore.dataLatch.trans hp.dataLatch, hcore.opcode.trans hp.opcode,
    hcore.cyclesTotal.trans hp.cyclesTotal, hcore.unknownSeen.trans hp.unknownSeen, hb ▸ e.log, hb ▸ e.seq,
    hb ▸ e.lastAddress, hb ▸ e.lastData, hb ▸ e.map, hb ▸ e.order, rfl, fun hn => ?_, fun s w hs hw => ?_,
    fun d dev u own before after hd hbody => memRead16_peripheral (hb.symm ▸ hd) hbody hr,
    fun hi => hcore.written.trans (hp.unwritten hi), fun a x y p hi => ?_⟩
  · rw [memRead16_of_unmapped (hb.symm ▸ hn)] at hr
    cases hr
    rfl
  · rw [← State.peek16_of_bus (hb.trans hs.symm)] at hw
    rw [memRead16_of_peek16 hw] at hr
    cases hr
    rfl
  · obtain ⟨ha, hx, hy, hpp, hw⟩ := hp.values a x y p hi
    exact ⟨hcore.a.trans ha, hcore.x.trans hx, hcore.y.trans hy, hcore.p.trans hpp, hcore.written.trans hw⟩

/-- Settles O12, by evaluation: the reset platform's stores are empty, its log holds the vector read alone. -/
theorem resetHasInvariant : Obligations.ResetHasInvariant :=
  ⟨⟨by decide, by decide, fun _ => ⟨by decide, by decide, by decide⟩⟩, rfl, rfl⟩

end Sys2Proof.Machine
end

section
/-! The write set of every instruction: which registers and flags it writes, all others kept, and that the spec's tables of
writers name these and no others (10_state.md R21, R22, R27). -/

namespace Sys2Proof.Machine

/-! ## The tables, by mnemonic -/

/-- `Reg.writtenBy` by mnemonic and form: `bare` when the instruction has no operand. -/
def Reg.writtenByRow (r : Reg) (m : Mnemonic) (bare : Bool) : Bool :=
  match r with
  | .a => decide (m ∈ [.lda, .pla, .txa, .tya, .adc, .sbc, .and, .ora, .eor]) || (decide (m ∈ Mnemonic.shifts) && bare)
  | .x => decide (m ∈ [.ldx, .tax, .tsx, .inx, .dex])
  | .y => decide (m ∈ [.ldy, .tay, .iny, .dey])

theorem Reg.writtenBy_eq_row (r : Reg) (i : Instr) :
    r.writtenBy i = r.writtenByRow i.mnemonic (decide (i.operand = none)) := by
  cases r <;> rfl

/-- The rows of R27 depend on the launch only through P_STORE_SETS_NZ. -/
theorem Flag.writers_eq_taken (f : Flag) (cfg : Config) :
    f.writers cfg = f.writers { Config.taken with storeSetsNZ := cfg.storeSetsNZ } := by
  cases f <;> rfl

/-- The tables name the mnemonic, in the form `bare` tells, for the registers `rs` and the flags `fs` and no others. -/
def namedFor (m : Mnemonic) (bare storeSetsNZ : Bool) (rs : List Reg) (fs : List Flag) : Bool :=
  [Reg.a, .x, .y].all (fun r => r.writtenByRow m bare == decide (r ∈ rs)) &&
    Flag.all.all fun f => decide (m ∈ f.writers { Config.taken with storeSetsNZ := storeSetsNZ }) == decide (f ∈ fs)

theorem namedFor_reg {i : Instr} {nz : Bool} {rs : List Reg} {fs : List Flag}
    (h : namedFor i.mnemonic (decide (i.operand = none)) nz rs fs = true) (r : Reg) :
    r.writtenBy i = decide (r ∈ rs) := by
  simp only [namedFor, Bool.and_eq_true, List.all_eq_true, beq_iff_eq] at h
  exact (r.writtenBy_eq_row i).trans (h.1 r (by cases r <;> decide))

theorem namedFor_flag {m : Mnemonic} {bare : Bool} {cfg : Config} {rs : List Reg} {fs : List Flag}
    (h : namedFor m bare cfg.storeSetsNZ rs fs = true) (f : Flag) : m ∈ f.writers cfg ↔ f ∈ fs := by
  simp only [namedFor, Bool.and_eq_true, List.all_eq_true, beq_iff_eq] at h
  rw [f.writers_eq_taken]
  exact decide_eq_decide.1 (h.2 f (by cases f <;> decide))

/-! ## What each shape writes -/

/-- `i` wrote the registers `rs` and the flags `fs`: every other is kept, these are marked written, and the tables of
writers name `i` for exactly these. -/
structure WritesExactly (i : Instr) (s t : State) (rs : List Reg) (fs : List Flag) : Prop where
  frame : ∃ ms, Frame rs fs ms s t
  regMarks : ∀ r ∈ rs, t.regWritten r = true
  flagMarks : ∀ f ∈ fs, t.flagWritten f = true
  named : namedFor i.mnemonic (decide (i.operand = none)) s.cfg.storeSetsNZ rs fs = true

theorem modifier_step {mn : Mnemonic} {m : Byte} {s : State} {r : Byte × State} (hm : mn ∈ [.inc, .dec])
    (h : modifier mn m s = .ok r) : r.2 = s := by
  simp only [List.mem_cons, List.not_mem_nil, or_false] at hm
  rcases hm with rfl | rfl <;> cases h <;> rfl

theorem modifier_shift {mn : Mnemonic} {m : Byte} {s : State} {r : Byte × State} (hm : mn ∈ Mnemonic.shifts)
    (h : modifier mn m s = .ok r) : ∃ c, r.2 = s.setFlag .c c := by
  simp only [Mnemonic.shifts, List.mem_cons, List.not_mem_nil, or_false] at hm
  rcases hm with rfl | rfl | rfl | rfl
  · cases h; exact ⟨_, rfl⟩
  · cases h; exact ⟨_, rfl⟩
  · obtain ⟨c, -, h⟩ := Result.bind_ok.1 h
    cases h; exact ⟨_, rfl⟩
  · obtain ⟨c, -, h⟩ := Result.bind_ok.1 h
    cases h; exact ⟨_, rfl⟩

theorem mem_shifts_of_modified {m : Mnemonic} (h : m ∈ [.inc, .dec, .asl, .lsr, .rol, .ror]) (hn : m ∉ [.inc, .dec]) :
    m ∈ Mnemonic.shifts := by
  simp_all [Mnemonic.shifts]

section
variable {rs : List Reg} {fs : List Flag} {ms : List BusAddr} {s t u : State}

theorem Frame.push8 (h : Frame rs fs ms s t) (ha : stackAddr t.cfg (t.sp - 1) ∈ ms) (b : Byte) :
    Frame rs fs ms s (push8 b t) :=
  (h.setSp _).memWrite8 ha b

theorem Frame.push16 (h : Frame rs fs ms s t) (ha : stackAddr t.cfg (t.sp - 2) ∈ ms)
    (ha' : stackAddr t.cfg (t.sp - 2) + 1 ∈ ms) {w : Word} (hu : push16 w t = .ok u) : Frame rs fs ms s u :=
  (h.setSp _).memWrite16 ha ha' hu

theorem Frame.pull8q (h : Frame rs fs ms s t) : Frame rs fs ms s (pull8q t).2 := (h.memRead8 _).setSp _

theorem Frame.pull16 (h : Frame rs fs ms s t) {r : Word × State} (hr : pull16 t = .ok r) : Frame rs fs ms s r.2 := by
  obtain ⟨a, ha, hr⟩ := Result.bind_ok.1 hr
  cases hr
  exact (h.memRead16 ha).setSp _

theorem takeBreak_frame {ret : Word} (h : takeBreak ret s = .ok t) : ∃ ms, Frame [] [.i] ms s t := by
  simp only [takeBreak, Result.bind_ok, Result.pure_ok] at h
  obtain ⟨st, -, s1, h1, v, hv, rfl⟩ := h
  refine ⟨[stackAddr s.cfg (s.sp - 2), stackAddr s.cfg (s.sp - 2) + 1, stackAddr s1.cfg (s1.sp - 1)], ?_⟩
  exact (((((Frame.refl _ _ _ s).push16 (by simp) (by simp) h1).push8 (by simp) st).setFlag (by simp) true).memRead16
    hv).setPc _

theorem returnFromBreak_frame (h : returnFromBreak s = .ok t) : Frame [] Flag.all [] s t := by
  simp only [returnFromBreak, Result.bind_ok, Result.pure_ok] at h
  obtain ⟨w, hw, rfl⟩ := h
  exact (((((Frame.refl _ _ _ s).memRead8 _).setP (fun f => by cases f <;> decide) _).setSp _).pull16 hw).setPc _

theorem takeBreak_flagWritten_i {ret : Word} (h : takeBreak ret s = .ok t) : t.flagWritten .i = true := by
  simp only [takeBreak, Result.bind_ok, Result.pure_ok] at h
  obtain ⟨st, -, s1, -, v, hv, rfl⟩ := h
  rw [State.setPc_flagWritten, (memRead16_accessed hv).1.core.flagWritten]
  simp

theorem pull16_flagWritten {r : Word × State} (h : pull16 s = .ok r) (g : Flag) :
    r.2.flagWritten g = s.flagWritten g :=
  ((Frame.refl [] [] [] s).pull16 h).flags g List.not_mem_nil |>.2

theorem returnFromBreak_flagWritten (h : returnFromBreak s = .ok t) (g : Flag) : t.flagWritten g = true := by
  simp only [returnFromBreak, Result.bind_ok, Result.pure_ok] at h
  obtain ⟨w, hw, rfl⟩ := h
  rw [State.setPc_flagWritten, pull16_flagWritten hw]
  simp

end

/-- An instruction without operand that the tables name. -/
theorem named_bare {i : Instr} {nz : Bool} {rs : List Reg} {fs : List Flag} (ho : i.operand = none)
    (h : namedFor i.mnemonic true nz rs fs = true) : namedFor i.mnemonic (decide (i.operand = none)) nz rs fs = true := by
  rw [ho]
  exact h

/-- An instruction with an operand that the tables name. -/
theorem named_operand {i : Instr} {o : Operand} {nz : Bool} {rs : List Reg} {fs : List Flag} (ho : i.operand = some o)
    (h : namedFor i.mnemonic false nz rs fs = true) : namedFor i.mnemonic (decide (i.operand = none)) nz rs fs = true := by
  rw [ho]
  exact h

/-- A result written to a register with Z and N: loads, transfers, pulls to A, logic and register steps. -/
theorem writesExactly_result {i : Instr} {s u : State} {r : Reg} (hu : Frame [r] [.z, .n] [] s u) (v w : Byte) (c : Nat)
    (hn : namedFor i.mnemonic (decide (i.operand = none)) s.cfg.storeSetsNZ [r] [.z, .n] = true) :
    WritesExactly i s (((u.setReg r v).setNZ w).retire c) [r] [.z, .n] :=
  ⟨⟨[], ((hu.setReg (by simp) _).setNZ (by simp) (by simp) _).retire _⟩, by simp, by simp, hn⟩

/-- An instruction that writes no register and no flag. -/
theorem writesExactly_none {i : Instr} {s u : State} {ms : List BusAddr} (hu : Frame [] [] ms s u) (c : Nat)
    (hn : namedFor i.mnemonic (decide (i.operand = none)) s.cfg.storeSetsNZ [] [] = true) :
    WritesExactly i s (u.retire c) [] [] :=
  ⟨⟨ms, hu.retire _⟩, by simp, by simp, hn⟩

/-- A store writes Z and N under P_STORE_SETS_NZ, and else nothing (41_load_store.md R173). -/
theorem writesExactly_store {i : Instr} {s : State} {r : Reg} {o : Operand} {v : Resolved} {c : Nat}
    (hm : (i.mnemonic, r) ∈ Mnemonic.stores) (ho : i.operand = some o) (hv : resolve o s = .ok v) :
    WritesExactly i s ((if s.cfg.storeSetsNZ then (memWrite8 v.value (s.reg r) v.state).setNZ (s.reg r)
      else memWrite8 v.value (s.reg r) v.state).retire c) [] (if s.cfg.storeSetsNZ then [.z, .n] else []) := by
  have table : ∀ p ∈ Mnemonic.stores, ∀ b, namedFor p.1 false b [] (if b then [.z, .n] else []) = true := by decide
  have hn := named_operand ho (table _ hm s.cfg.storeSetsNZ)
  have hw {fs} : Frame [] fs [v.value] s (memWrite8 v.value (s.reg r) v.state) :=
    ((Frame.refl _ _ _ s).resolve hv).memWrite8 (List.mem_singleton_self _) _
  split
  · exact ⟨⟨_, (hw.setNZ (by simp) (by simp) _).retire _⟩, by simp, by simp, by simpa [*] using hn⟩
  · exact writesExactly_none hw _ (by simpa [*] using hn)

/-- A read-modify-write writes Z and N, a shift C as well (43_arith_logic.md R210, 44_shift_rotate.md R230). -/
theorem writesExactly_modifyMem {i : Instr} {s : State} {o : Operand} {v : Resolved} {r : Byte × State} {c : Nat}
    (hm : i.mnemonic ∈ [.inc, .dec, .asl, .lsr, .rol, .ror]) (ho : i.operand = some o) (hv : resolve o s = .ok v)
    (hr : modifier i.mnemonic (memRead8 v.value v.state).1 (memRead8 v.value v.state).2 = .ok r) :
    ∃ rs fs, WritesExactly i s (((memWrite8 v.value r.1 r.2).setNZ r.1).retire c) rs fs := by
  have hread {fs} : Frame [] fs [v.value] s (memRead8 v.value v.state).2 := ((Frame.refl _ _ _ s).resolve hv).memRead8 _
  by_cases hstep : i.mnemonic ∈ [.inc, .dec]
  · have table : ∀ m ∈ [Mnemonic.inc, .dec], ∀ b, namedFor m false b [] [.z, .n] = true := by decide
    have hf : Frame [] [.z, .n] [v.value] s r.2 := modifier_step hstep hr ▸ hread
    exact ⟨[], [.z, .n], ⟨_, ((hf.memWrite8 (by simp) _).setNZ (by simp) (by simp) _).retire _⟩, by simp, by simp,
      named_operand ho (table _ hstep _)⟩
  · have table : ∀ m ∈ Mnemonic.shifts, ∀ b, namedFor m false b [] [.c, .z, .n] = true := by decide
    have hshift := mem_shifts_of_modified hm hstep
    obtain ⟨carry, hcarry⟩ := modifier_shift hshift hr
    have hf : Frame [] [.c, .z, .n] [v.value] s r.2 := hcarry ▸ hread.setFlag (by simp) carry
    have hmark : (memWrite8 v.value r.1 r.2).flagWritten .c = true := by
      rw [(memWrite8_accessed _ _ _).core.flagWritten, hcarry]; simp
    exact ⟨[], [.c, .z, .n], ⟨_, ((hf.memWrite8 (by simp) _).setNZ (by simp) (by simp) _).retire _⟩, by simp,
      by simp [hmark], named_operand ho (table _ hshift _)⟩

/-- The write set of each shape of instruction. -/
theorem exec_writesExactly {i : Instr} {s t : State} (h : exec i s = .next t) : ∃ rs fs, WritesExactly i s t rs fs := by
  have e {rs fs ms} : Frame rs fs ms s s := Frame.refl rs fs ms s
  cases exec_completed h with
  | load r o v hm ho hv ht =>
    have table : ∀ p ∈ Mnemonic.loads, ∀ b, namedFor p.1 false b [p.2] [.z, .n] = true := by decide
    exact ⟨_, _, ht ▸ writesExactly_result (e.operand hv) _ _ _ (named_operand ho (table _ hm _))⟩
  | store r o v hm ho hv hr ht => exact ⟨_, _, ht ▸ writesExactly_store hm ho hv⟩
  | transfer src dst hm ho hr ht =>
    have table : ∀ p ∈ [(Mnemonic.tax, Reg.a, Reg.x), (.tay, .a, .y), (.txa, .x, .a), (.tya, .y, .a)], ∀ b,
      namedFor p.1 true b [p.2.2] [.z, .n] = true := by decide
    exact ⟨_, _, ht ▸ writesExactly_result e _ _ _ (named_bare ho (table _ hm _))⟩
  | tsx hm ho ht =>
    have table : ∀ b, namedFor .tsx true b [.x] [.z, .n] = true := by decide
    exact ⟨_, _, ht ▸ writesExactly_result e _ _ _ (named_bare ho (hm ▸ table _))⟩
  | txs hm ho hr ht =>
    have table : ∀ b, namedFor .txs true b [] [] = true := by decide
    exact ⟨_, _, ht ▸ writesExactly_none (ms := []) (e.setSp _) _ (named_bare ho (hm ▸ table _))⟩
  | pha hm ho hr ht =>
    have table : ∀ b, namedFor .pha true b [] [] = true := by decide
    exact ⟨_, _, ht ▸ writesExactly_none (e.push8 (List.mem_singleton_self _) _) _ (named_bare ho (hm ▸ table _))⟩
  | php st hm ho hp ht =>
    have table : ∀ b, namedFor .php true b [] [] = true := by decide
    exact ⟨_, _, ht ▸ writesExactly_none (e.push8 (List.mem_singleton_self _) _) _ (named_bare ho (hm ▸ table _))⟩
  | pla hm ho ht =>
    have table : ∀ b, namedFor .pla true b [.a] [.z, .n] = true := by decide
    exact ⟨_, _, ht ▸ writesExactly_result e.pull8q _ _ _ (named_bare ho (hm ▸ table _))⟩
  | plp hm ho ht =>
    have table : ∀ b, namedFor .plp true b [] Flag.all = true := by decide
    exact ⟨[], Flag.all, ht ▸ ⟨⟨[], (e.pull8q.setP (fun f => by cases f <;> decide) _).retire _⟩, by simp, by simp,
      named_bare ho (hm ▸ table _)⟩⟩
  | decimal o v hm ho hv _ _ ht =>
    have table : ∀ m ∈ [Mnemonic.adc, .sbc], ∀ b, namedFor m false b [.a] [.c, .z, .v, .n] = true := by decide
    have f : Frame [.a] [.c, .z, .v, .n] [] s _ := e.operand hv
    exact ⟨[.a], [.c, .z, .v, .n], ht ▸ ⟨⟨[], ((((((f.setReg (by simp) _).setFlag (by simp) _).setFlag (by simp) _).setFlag
      (by simp) _).setFlag (by simp) _).useDraws _).retire _⟩, by simp [decimalDraw], by simp [decimalDraw],
      named_operand ho (table _ hm _)⟩⟩
  | arith g o v hm ho hv _ _ _ _ ht =>
    have table : ∀ m ∈ [Mnemonic.adc, .sbc], ∀ b, namedFor m false b [.a] [.c, .z, .v, .n] = true := by decide
    have f : Frame [.a] [.c, .z, .v, .n] [] s _ := e.operand hv
    exact ⟨[.a], [.c, .z, .v, .n], ht ▸ ⟨⟨[], ((((f.setFlag (by simp) _).setFlag (by simp) _).setReg (by simp) _).setNZ
      (by simp) (by simp) _).retire _⟩, by simp [State.setArith], by simp [State.setArith],
      named_operand ho (table _ hm _)⟩⟩
  | logic g o v hm ho hv _ ht =>
    have table : ∀ m ∈ [Mnemonic.and, .ora, .eor], ∀ b, namedFor m false b [.a] [.z, .n] = true := by decide
    exact ⟨_, _, ht ▸ writesExactly_result (e.operand hv) _ _ _ (named_operand ho (table _ hm _))⟩
  | bit o v hm ho hv _ ht =>
    have table : ∀ b, namedFor .bit false b [] [.z, .n, .v] = true := by decide
    have f : Frame [] [.z, .n, .v] [] s _ := e.operand hv
    exact ⟨[], [.z, .n, .v], ht ▸ ⟨⟨[], (((f.setFlag (by simp) _).setFlag (by simp) _).setFlag (by simp) _).retire _⟩,
      by simp, by simp [State.setBitTest], named_operand ho (hm ▸ table _)⟩⟩
  | compare r o v hm ho hv _ ht =>
    have table : ∀ p ∈ Mnemonic.compares, ∀ b, namedFor p.1 false b [] [.c, .z, .n] = true := by decide
    have f : Frame [] [.c, .z, .n] [] s _ := e.operand hv
    exact ⟨[], [.c, .z, .n], ht ▸ ⟨⟨[], (((f.setFlag (by simp) _).setFlag (by simp) _).setFlag (by simp) _).retire _⟩,
      by simp, by simp [State.setCompare], named_operand ho (table _ hm _)⟩⟩
  | modifyMem o v r hm ho hv hr ht => exact ht ▸ writesExactly_modifyMem hm ho hv hr
  | bump r g hm ho hr ht =>
    have table : ∀ p ∈ [(Mnemonic.inx, Reg.x), (.iny, .y), (.dex, .x), (.dey, .y)], ∀ b,
      namedFor p.1 true b [p.2] [.z, .n] = true := by decide
    exact ⟨_, _, ht ▸ writesExactly_result e _ _ _ (named_bare ho (table _ hm _))⟩
  | modifyAcc r hm ho _ hr ht =>
    have table : ∀ m ∈ Mnemonic.shifts, ∀ b, namedFor m true b [.a] [.c, .z, .n] = true := by decide
    obtain ⟨c, hc⟩ := modifier_shift hm hr
    have f : Frame [.a] [.c, .z, .n] [] s r.2 := hc ▸ e.setFlag (by simp) c
    exact ⟨[.a], [.c, .z, .n], ht ▸ ⟨⟨[], ((f.setReg (by simp) _).setNZ (by simp) (by simp) _).retire _⟩, by simp,
      by simp [hc], named_bare ho (table _ hm _)⟩⟩
  | jmp o v hm ho hv ht =>
    have table : ∀ b, namedFor .jmp false b [] [] = true := by decide
    exact ⟨_, _, ht ▸ writesExactly_none (ms := []) ((e.resolve hv).setPc _) _ (named_operand ho (hm ▸ table _))⟩
  | jsr o v u hm ho hv hu ht =>
    have table : ∀ b, namedFor .jsr false b [] [] = true := by decide
    have f : Frame [] [] [stackAddr v.state.cfg (v.state.sp - 2), stackAddr v.state.cfg (v.state.sp - 2) + 1] s u :=
      (e.resolve hv).push16 (by simp) (by simp) hu
    exact ⟨_, _, ht ▸ writesExactly_none (f.setPc _) _ (named_operand ho (hm ▸ table _))⟩
  | rts w hm ho hw ht =>
    have table : ∀ b, namedFor .rts true b [] [] = true := by decide
    exact ⟨_, _, ht ▸ writesExactly_none (ms := []) ((e.pull16 hw).setPc _) _ (named_bare ho (hm ▸ table _))⟩
  | branch g on o v hm ho hv _ ht =>
    have table : ∀ p ∈ Mnemonic.branches, ∀ b, namedFor p.1 false b [] [] = true := by decide
    have hn := named_operand ho (table _ hm s.cfg.storeSetsNZ)
    have f : Frame [] [] [] s v.state := e.resolve hv
    rcases ht with rfl | rfl | rfl
    · exact ⟨_, _, writesExactly_none (f.setPc _) _ hn⟩
    · exact ⟨_, _, writesExactly_none (f.setPc _) _ hn⟩
    · exact ⟨_, _, writesExactly_none f _ hn⟩
  | brk u hm ho hu ht =>
    have table : ∀ b, namedFor .brk true b [] [.i] = true := by decide
    obtain ⟨ms, f⟩ := takeBreak_frame hu
    exact ⟨[], [.i], ht ▸ ⟨⟨ms, f.retire _⟩, by simp, by simp [takeBreak_flagWritten_i hu], named_bare ho (hm ▸ table _)⟩⟩
  | rti u hm ho hu ht =>
    have table : ∀ b, namedFor .rti true b [] Flag.all = true := by decide
    exact ⟨[], Flag.all, ht ▸ ⟨⟨[], (returnFromBreak_frame hu).retire _⟩, by simp,
      fun g _ => returnFromBreak_flagWritten hu g, named_bare ho (hm ▸ table _)⟩⟩
  | flag g v hm ho ht =>
    have table : ∀ p ∈ [(Mnemonic.clc, Flag.c, false), (.sec, .c, true), (.cli, .i, false), (.sei, .i, true),
      (.cld, .d, false), (.sed, .d, true), (.clv, .v, false)], ∀ b, namedFor p.1 true b [] [p.2.1] = true := by decide
    exact ⟨[], [g], ht ▸ ⟨⟨[], (e.setFlag (by simp) v).retire _⟩, by simp, by simp, named_bare ho (table _ hm _)⟩⟩
  | nop hm ho ht =>
    have table : ∀ b, namedFor .nop true b [] [] = true := by decide
    exact ⟨_, _, ht ▸ writesExactly_none (ms := []) e _ (named_bare ho (hm ▸ table _))⟩

/-- Settles O18, from the write set of the instruction. -/
theorem flagsHaveOnlyTheirWriters : Obligations.FlagsHaveOnlyTheirWriters := by
  intro i s t f h
  obtain ⟨rs, fs, ⟨⟨ms, hframe⟩, -, hmarks, hnamed⟩⟩ := exec_writesExactly h
  rw [namedFor_flag hnamed f]
  exact ⟨hframe.flags f, hmarks f⟩

/-- Settles O19, from the write set of the instruction. -/
theorem registersHaveOnlyTheirWriters : Obligations.RegistersHaveOnlyTheirWriters := by
  intro i s t r h
  obtain ⟨rs, fs, ⟨⟨ms, hframe⟩, hmarks, -, hnamed⟩⟩ := exec_writesExactly h
  rw [namedFor_reg hnamed r, decide_eq_false_iff_not, decide_eq_true_iff]
  exact ⟨hframe.regs r, hmarks r⟩

end Sys2Proof.Machine
end

section
/-! SP and PC of every instruction (10_state.md R23, R28). -/

namespace Sys2Proof.Machine

section
variable {s t : State}

theorem push8_pc (b : Byte) (s : State) : (push8 b s).pc = s.pc := (memWrite8_accessed _ b (s.setSp (s.sp - 1))).core.pc

theorem pull8q_pc (s : State) : (pull8q s).2.pc = s.pc := (memRead8_effect _ s).core.pc

theorem modifier_sp_pc {mn : Mnemonic} {m : Byte} {r : Byte × State} (h : modifier mn m s = .ok r) :
    r.2.sp = s.sp ∧ r.2.pc = s.pc := by
  rcases modifier_ok h with e | ⟨c, e⟩ <;> rw [e] <;> exact ⟨rfl, rfl⟩

/-- A read-modify-write keeps SP and PC. -/
theorem modifyMem_sp_pc {mn : Mnemonic} {v : Resolved} {o : Operand} {r : Byte × State} (hv : resolve o s = .ok v)
    (h : modifier mn (memRead8 v.value v.state).1 (memRead8 v.value v.state).2 = .ok r) :
    (memWrite8 v.value r.1 r.2).sp = s.sp ∧ (memWrite8 v.value r.1 r.2).pc = s.pc := by
  have hw := (memWrite8_accessed v.value r.1 r.2).core
  have hread := (resolve_effect hv).core.trans (memRead8_effect v.value v.state).core
  obtain ⟨hsp, hpc⟩ := modifier_sp_pc h
  exact ⟨hw.sp.trans (hsp.trans hread.sp), hw.pc.trans (hpc.trans hread.pc)⟩

end

/-- Settles O21: outside the writers each shape leaves SP and PC as they were, by the field lemmas of its operations. -/
theorem spAndPcHaveOnlyTheirWriters : Obligations.SpAndPcHaveOnlyTheirWriters := by
  intro i s t h
  have sp {m : Mnemonic} (hm : i.mnemonic = m) (hw : m ∈ [.txs, .pha, .php, .pla, .plp, .jsr, .rts, .brk, .rti]) :
      i.writesSp = false → t.sp = s.sp := fun hn => by simp [Instr.writesSp, hm, hw] at hn
  have pc {m : Mnemonic} (hm : i.mnemonic = m)
      (hw : m ∈ [.jmp, .jsr, .rts, .brk, .rti, .bpl, .bmi, .bvc, .bvs, .bcc, .bcs, .bne, .beq]) :
      i.transfersControl = false → t.pc = s.pc := fun hn => by simp [Instr.transfersControl, hm, hw] at hn
  cases exec_completed h with
  | load r o v hm ho hv ht => subst ht; simp [operand_sp hv, operand_pc hv]
  | store r o v hm ho hv hr ht =>
    have hw := (resolve_effect hv).core.trans (memWrite8_accessed v.value (s.reg r) v.state).core
    subst ht
    split <;> simp [hw.sp, hw.pc]
  | transfer src dst hm ho hr ht => subst ht; simp
  | tsx hm ho ht => subst ht; simp
  | txs hm ho hr ht => exact ⟨sp hm (by decide), fun _ => by simp [ht]⟩
  | pha hm ho hr ht => exact ⟨sp hm (by decide), fun _ => by simp [ht, push8_pc]⟩
  | php st hm ho hp ht => exact ⟨sp hm (by decide), fun _ => by simp [ht, push8_pc]⟩
  | pla hm ho ht => exact ⟨sp hm (by decide), fun _ => by simp [ht, pull8q_pc]⟩
  | plp hm ho ht => exact ⟨sp hm (by decide), fun _ => by simp [ht, pull8q_pc]⟩
  | decimal o v hm ho hv _ _ ht => subst ht; simp [decimalDraw, operand_sp hv, operand_pc hv]
  | arith g o v hm ho hv _ _ _ _ ht => subst ht; simp [State.setArith, operand_sp hv, operand_pc hv]
  | logic g o v hm ho hv _ ht => subst ht; simp [operand_sp hv, operand_pc hv]
  | bit o v hm ho hv _ ht => subst ht; simp [State.setBitTest, operand_sp hv, operand_pc hv]
  | compare r o v hm ho hv _ ht => subst ht; simp [State.setCompare, operand_sp hv, operand_pc hv]
  | modifyMem o v r hm ho hv hr ht => subst ht; simp [modifyMem_sp_pc hv hr]
  | bump r g hm ho hr ht => subst ht; simp
  | modifyAcc r hm ho _ hr ht => subst ht; simp [modifier_sp_pc hr]
  | jmp o v hm ho hv ht =>
    exact ⟨fun _ => by simp [ht, (resolve_effect hv).core.sp], pc hm (by decide)⟩
  | jsr o v u hm ho hv hu ht => exact ⟨sp hm (by decide), pc hm (by decide)⟩
  | rts w hm ho hw ht => exact ⟨sp hm (by decide), pc hm (by decide)⟩
  | branch g on o v hm ho hv _ ht =>
    have table : ∀ p ∈ Mnemonic.branches,
        p.1 ∈ [.jmp, .jsr, .rts, .brk, .rti, .bpl, .bmi, .bvc, .bvs, .bcc, .bcs, .bne, .beq] := by decide
    exact ⟨fun _ => by rcases ht with rfl | rfl | rfl <;> simp [(resolve_effect hv).core.sp], pc rfl (table _ hm)⟩
  | brk u hm ho hu ht => exact ⟨sp hm (by decide), pc hm (by decide)⟩
  | rti u hm ho hu ht => exact ⟨sp hm (by decide), pc hm (by decide)⟩
  | flag g v hm ho ht => subst ht; simp
  | nop hm ho ht => subst ht; simp

end Sys2Proof.Machine
end

section
/-! Reads of what has not been written: the fault of each shape of instruction at that read (10_state.md R37,
60_exceptions.md R311). -/

namespace Sys2Proof.Machine

variable {i : Instr} {o : Operand} {s : State} {v : Resolved} {f : Fault}

/-! ## Faults of the resolver -/

/-- An instruction with an operand runs its resolver first. -/
theorem exec_resolves_first (ho : i.operand = some o) (s : State) :
    ∃ k : Resolved → Result State, exec i s = outcome (resolve o s >>= k) := by
  cases exec_shape i s with
  | load r o' _ h he | store r o' _ h he | arith g o' _ h he | logic g o' _ h he | bit o' _ h he | compare r o' _ h he
  | modifyMem o' _ h he | jmp o' _ h he | jsr o' _ h he | branch g on o' _ h he =>
    cases h.symm.trans ho
    exact ⟨_, he⟩
  | transfer _ _ _ h | tsx _ h | txs _ h | pha _ h | php _ h | pla _ h | plp _ h | bump _ _ _ h | modifyAcc _ h
  | rts _ h | brk _ h | rti _ h | flag _ _ _ h | nop _ h => cases h.symm.trans ho

theorem exec_of_resolve_error (ho : i.operand = some o) (h : resolve o s = .error f) : exec i s = .fault f := by
  obtain ⟨k, hk⟩ := exec_resolves_first ho s
  rw [hk, h]
  rfl

/-- Every indexed mode but `(zp),Y` reads its index first. -/
theorem resolve_of_unwritten_index {r : Reg} (hi : o.index = some r) (hw : s.regWritten r = false)
    (hn : ∀ zz, o ≠ .indY zz) : resolve o s = .error (.unwrittenRead (.reg r) s) := by
  cases o with
  | imm _ | zp _ | abs _ | ind _ | rel _ => cases hi
  | zpX _ | zpY _ | absX _ | absY _ | indX _ => cases hi; simp [resolve, readReg_of_not hw]
  | indY zz => exact absurd rfl (hn zz)

/-- `(zp),Y` reads its pointer, then its index (30_encoding.md R113). -/
theorem resolve_indY_of_unwritten {zz : Byte} {w : Word} {u : State} (hw : s.regWritten .y = false)
    (hp : memRead16 (zz.setWidth 17) s = .ok (w, u)) :
    resolve (.indY zz) s = .error (.unwrittenRead (.reg .y) u) := by
  have hu : u.regWritten .y = false := ((memRead16_accessed hp).1.core.regWritten .y).trans hw
  simp [resolve, readPtr, hp, readReg_of_not hu]

/-! ## Faults after the resolver or the operand -/

theorem readReg_resolved_of_not {r : Reg} (hv : resolve o s = .ok v) (hr : s.regWritten r = false) :
    readReg r v.state = .error (.unwrittenRead (.reg r) v.state) :=
  readReg_of_not (((resolve_effect hv).core.regWritten r).trans hr)

theorem readReg_operand_of_not {r : Reg} (hv : resolve o s = .ok v) (hr : s.regWritten r = false) :
    readReg r (readOperand o v).2 = .error (.unwrittenRead (.reg r) (readOperand o v).2) :=
  readReg_of_not ((operand_regWritten hv r).trans hr)

theorem readFlag_operand_of_not {g : Flag} (hv : resolve o s = .ok v) (hg : s.flagWritten g = false) :
    readFlag g (readOperand o v).2 = .error (.unwrittenRead (.flag g) (readOperand o v).2) :=
  readFlag_of_not ((operand_flagWritten hv g).trans hg)

theorem store_of_unwritten {r : Reg} (opc : Byte) (hv : resolve o s = .ok v) (hr : s.regWritten r = false) :
    store r opc o s = .error (.unwrittenRead (.reg r) v.state) := by
  simp [store, hv, readReg_resolved_of_not hv hr]

theorem compareReg_of_unwritten {r : Reg} (opc : Byte) (hv : resolve o s = .ok v) (hr : s.regWritten r = false) :
    compareReg r opc o s = .error (.unwrittenRead (.reg r) (readOperand o v).2) := by
  simp [compareReg, hv, readReg_operand_of_not hv hr]

theorem logic_of_unwritten (g : Byte → Byte → Byte) (opc : Byte) (hv : resolve o s = .ok v)
    (hr : s.regWritten .a = false) : logic g opc o s = .error (.unwrittenRead (.reg .a) (readOperand o v).2) := by
  simp [logic, hv, readReg_operand_of_not hv hr]

theorem bitTest_of_unwritten (opc : Byte) (hv : resolve o s = .ok v) (hr : s.regWritten .a = false) :
    bitTest opc o s = .error (.unwrittenRead (.reg .a) (readOperand o v).2) := by
  simp [bitTest, hv, readReg_operand_of_not hv hr]

/-- A branch has a relative operand (45_control.md R244). -/
theorem operand_of_branch {g : Flag} {on : Bool} (h : (i.mnemonic, g, on) ∈ Mnemonic.branches)
    (ho : i.operand = some o) : ∃ rr, o = .rel rr := by
  cases i <;> simp [Mnemonic.branches, Instr.mnemonic] at h <;> cases ho <;> exact ⟨_, rfl⟩

theorem branch_of_unwritten {g : Flag} (on : Bool) (hv : resolve o s = .ok v) (hg : s.flagWritten g = false) :
    branch g on o s = .error (.unwrittenRead (.flag g) v.state) := by
  simp [branch, hv, readFlag_of_not (((resolve_effect hv).core.flagWritten g).trans hg)]

/-! ADC and SBC read D, then A, then C (43_arith_logic.md R200, R202; log 28). -/

section
variable (g : Byte → Byte → Bool → ArithOut) (opc : Byte)

theorem arith_of_unwritten_d (hv : resolve o s = .ok v) (hd : s.flagWritten .d = false) :
    arith g opc o s = .error (.unwrittenRead (.flag .d) (readOperand o v).2) := by
  simp [arith, hv, readFlag_operand_of_not hv hd]

theorem readFlag_d_operand (hv : resolve o s = .ok v) (hd : s.flagWritten .d = true) :
    readFlag .d (readOperand o v).2 = .ok (s.flag .d) := by
  rw [readFlag_of ((operand_flagWritten hv .d).trans hd), operand_flag hv]

theorem arith_of_unwritten_a (hv : resolve o s = .ok v) (hd : s.flagWritten .d = true) (hn : ¬ s.decimalDraws)
    (ha : s.regWritten .a = false) :
    arith g opc o s = .error (.unwrittenRead (.reg .a) (readOperand o v).2) := by
  unfold State.decimalDraws at hn
  simp only [arith, hv, Result.ok_bind, readFlag_d_operand hv hd, hn, if_false, readReg_operand_of_not hv ha,
    Result.error_bind]

theorem arith_of_unwritten_c (hv : resolve o s = .ok v) (hd : s.flagWritten .d = true) (hn : ¬ s.decimalDraws)
    (ha : s.regWritten .a = true) (hc : s.flagWritten .c = false) :
    arith g opc o s = .error (.unwrittenRead (.flag .c) (readOperand o v).2) := by
  have ha' : readReg .a (readOperand o v).2 = .ok _ := readReg_of ((operand_regWritten hv .a).trans ha)
  unfold State.decimalDraws at hn
  simp only [arith, hv, Result.ok_bind, readFlag_d_operand hv hd, hn, if_false, ha', readFlag_operand_of_not hv hc,
    Result.error_bind]

end

/-! The rotates read C after the byte they rotate (44_shift_rotate.md R233, R234). -/

theorem modifier_of_unwritten_c {mn : Mnemonic} (hm : mn ∈ [.rol, .ror]) (m : Byte) (hc : s.flagWritten .c = false) :
    modifier mn m s = .error (.unwrittenRead (.flag .c) s) := by
  simp only [List.mem_cons, List.not_mem_nil, or_false] at hm
  rcases hm with rfl | rfl
  · simp [modifier, rolShift, readFlag_of_not hc]
  · simp [modifier, rorShift, readFlag_of_not hc]

theorem modifyMem_of_unwritten_c {mn : Mnemonic} (hm : mn ∈ [.rol, .ror]) (opc : Byte) (hv : resolve o s = .ok v)
    (hc : s.flagWritten .c = false) :
    modifyMem (modifier mn) opc o s = .error (.unwrittenRead (.flag .c) (memRead8 v.value v.state).2) := by
  have hcore := (resolve_effect hv).core.trans (memRead8_effect v.value v.state).core
  simp [modifyMem, hv, modifier_of_unwritten_c hm _ ((hcore.flagWritten .c).trans hc)]

theorem modifyAcc_of_unwritten_c {mn : Mnemonic} (hm : mn ∈ [.rol, .ror]) (opc : Byte) (ha : s.regWritten .a = true)
    (hc : s.flagWritten .c = false) : modifyAcc (modifier mn) opc s = .error (.unwrittenRead (.flag .c) s) := by
  simp [modifyAcc, readReg_of ha, modifier_of_unwritten_c hm _ hc]

/-! ## Faults before anything else is done -/

/-- The instructions without operand that read a register do so first. -/
theorem exec_reads_source {r : Reg}
    (h : (i, r) ∈ [(Instr.tax, Reg.a), (.tay, .a), (.txa, .x), (.tya, .y), (.txs, .x), (.pha, .a), (.inx, .x), (.iny, .y),
      (.dex, .x), (.dey, .y), (.aslAcc, .a), (.lsrAcc, .a), (.rolAcc, .a), (.rorAcc, .a)]) (s : State) :
    ∃ k : Byte → Result State, exec i s = outcome (readReg r s >>= k) := by
  simp only [List.mem_cons, Prod.mk.injEq, List.not_mem_nil, or_false] at h
  rcases h with ⟨rfl, rfl⟩ | ⟨rfl, rfl⟩ | ⟨rfl, rfl⟩ | ⟨rfl, rfl⟩ | ⟨rfl, rfl⟩ | ⟨rfl, rfl⟩ | ⟨rfl, rfl⟩ | ⟨rfl, rfl⟩ |
    ⟨rfl, rfl⟩ | ⟨rfl, rfl⟩ | ⟨rfl, rfl⟩ | ⟨rfl, rfl⟩ | ⟨rfl, rfl⟩ | ⟨rfl, rfl⟩ <;> exact ⟨_, rfl⟩

/-- A bit of P that PHP and BRK push is unwritten: the read of P names one (log 12). -/
theorem pushedStatus_of_not (h : ¬ s.statusReadable) : ∃ g, s.cfg.phpMask.getLsbD g.bit = false ∧
    s.flagWritten g = false ∧ pushedStatus s = .error (.unwrittenRead (.flag g) s) := by
  cases hp : pushedStatus s with
  | error f =>
    obtain ⟨g, rfl, hm, hw⟩ := pushedStatus_error hp
    exact ⟨g, hm, hw, rfl⟩
  | ok st =>
    refine absurd (fun g hm => ?_) h
    unfold pushedStatus at hp
    split at hp
    · cases hp
    · rename_i hnone
      have := List.find?_eq_none.1 hnone g (by cases g <;> decide)
      simpa [hm] using this

/-- Settles O58: each part is the fault of its shape's first read of what is unwritten. -/
theorem unwrittenSourcesFault : Obligations.UnwrittenSourcesFault := by
  intro s
  refine ⟨fun i o r ho hi hw hn => ?index, fun i zz w u ho hw hp => ?pointerIndex, fun i r hi hw => ?source,
    fun i r o hm ho hready hw => ?store, fun i r o hm ho hready hw => ?operand, fun i o hm ho hready => ?arith,
    fun i hi ha hc => ?rotateAcc, fun i o hm ho hready hc => ?rotateMem, fun i g on o hm ho hw => ?branch,
    fun hn => ?status⟩
  case index => exact exec_of_resolve_error ho (resolve_of_unwritten_index hi hw hn)
  case pointerIndex => exact exec_of_resolve_error ho (resolve_indY_of_unwritten hw hp)
  case source =>
    obtain ⟨k, hk⟩ := exec_reads_source hi s
    rw [hk, readReg_of_not hw]
    rfl
  case store =>
    obtain ⟨v, hv⟩ := resolve_of_ready hready
    exact ⟨v, hv, by rw [exec_store hm ho, store_of_unwritten _ hv hw]; rfl⟩
  case operand =>
    obtain ⟨v, hv⟩ := resolve_of_ready hready
    refine ⟨v, hv, ?_⟩
    rcases List.mem_append.1 hm with hc | hl
    · rw [exec_compare hc ho, compareReg_of_unwritten _ hv hw]; rfl
    · simp only [List.mem_cons, Prod.mk.injEq, List.not_mem_nil, or_false] at hl
      rcases hl with ⟨hl, rfl⟩ | ⟨hl, rfl⟩ | ⟨hl, rfl⟩ | ⟨hl, rfl⟩
      · rw [exec_and hl ho, logic_of_unwritten _ _ hv hw]; rfl
      · rw [exec_ora hl ho, logic_of_unwritten _ _ hv hw]; rfl
      · rw [exec_eor hl ho, logic_of_unwritten _ _ hv hw]; rfl
      · rw [exec_bit hl ho, bitTest_of_unwritten _ hv hw]; rfl
  case arith =>
    obtain ⟨v, hv⟩ := resolve_of_ready hready
    obtain ⟨g, hg⟩ : ∃ g, exec i s = outcome (arith g i.opcode o s) := by
      simp only [List.mem_cons, List.not_mem_nil, or_false] at hm
      rcases hm with hm | hm
      · exact ⟨_, exec_adc hm ho s⟩
      · exact ⟨_, exec_sbc hm ho s⟩
    refine ⟨v, hv, fun hd => ?_, fun hd hn ha => ?_, fun hd hn ha hc => ?_⟩
    · rw [hg, arith_of_unwritten_d _ _ hv hd]; rfl
    · rw [hg, arith_of_unwritten_a _ _ hv hd hn ha]; rfl
    · rw [hg, arith_of_unwritten_c _ _ hv hd hn ha hc]; rfl
  case rotateAcc =>
    have table : ∀ j ∈ [Instr.rolAcc, .rorAcc], j.mnemonic ∈ [.rol, .ror] ∧ j.mnemonic ∈ [.asl, .lsr, .rol, .ror] ∧
      j.operand = none := by decide
    obtain ⟨hm, hshift, ho⟩ := table i hi
    rw [exec_modifyAcc hshift ho, modifyAcc_of_unwritten_c hm _ ha hc]; rfl
  case rotateMem =>
    obtain ⟨v, hv⟩ := resolve_of_ready hready
    have hmod : i.mnemonic ∈ [.inc, .dec, .asl, .lsr, .rol, .ror] :=
      (by decide : [Mnemonic.rol, .ror] ⊆ [.inc, .dec, .asl, .lsr, .rol, .ror]) hm
    exact ⟨v, hv, by rw [exec_modifyMem hmod ho, modifyMem_of_unwritten_c hm _ hv hc]; rfl⟩
  case branch =>
    obtain ⟨rr, rfl⟩ := operand_of_branch hm ho
    exact ⟨_, rfl, by rw [exec_branch hm ho, branch_of_unwritten _ rfl hw]; rfl⟩
  case status =>
    obtain ⟨g, hm, hw, hp⟩ := pushedStatus_of_not hn
    exact ⟨g, hm, hw, by simp [exec, execPhp, pushStatus, hp, outcome],
      by simp [exec, execBrk, breakEntry, takeBreak, hp, outcome]⟩

end Sys2Proof.Machine
end

section
/-! A tick and the run's invariant: the platform it keeps, the numbering of the log, and the addresses latched and
logged (20_memory.md R55 to R57, 30_encoding.md R109, 40_core_cycle.md R144). -/

namespace Sys2Proof.Machine

variable {s t : State}

/-! ## The CPU's part of a tick -/

/-- The state the opcode fetch starts in: the bus reset, and the opcode it will find latched. -/
def fetchStart (s : State) : State := (busReset s).setOpcode (fetch8 (busReset s)).1

/-- A CPU clock leaves the launch parameters, the address latch and the bus of the state it started in, on a Busy tick,
or else of a state that the fetch and the instruction made from `fetchStart`. -/
theorem cpuClock_evolves (h : cpuClock s = .next t) :
    ∃ u, (u = s ∨ Evolves (fetchStart s) u) ∧ t.cfg = u.cfg ∧ t.addrLatch = u.addrLatch ∧ t.bus = u.bus := by
  have hfetch : Evolves (fetchStart s) (opcodeFetched s) := (opcodeFetched_effect s).1
  rcases cpuClock_next h with ⟨-, rfl⟩ | ⟨-, -, -, rfl⟩ | ⟨-, row, -, i, u, -, hu, he⟩
  · exact ⟨s, .inl rfl, rfl, rfl, rfl⟩
  · exact ⟨_, .inr hfetch, rfl, rfl, rfl⟩
  · exact ⟨t, .inr ((hfetch.trans hu).trans (exec_evolves he)), rfl, rfl, rfl⟩

theorem cpuClock_platform (h : cpuClock s = .next t) :
    t.bus.map = s.bus.map ∧ t.bus.order = s.bus.order ∧ t.bus.fixedPart = s.bus.fixedPart := by
  obtain ⟨u, rfl | hu, -, -, hb⟩ := cpuClock_evolves h
  · rw [hb]; exact ⟨rfl, rfl, rfl⟩
  · rw [hb]; exact ⟨hu.machine.map, hu.machine.order, hu.machine.fixed⟩

/-- Settles O13: the CPU's part of the tick and the part after it each keep the platform. -/
theorem stepKeepsThePlatform : Obligations.StepKeepsThePlatform := by
  intro s t h
  obtain ⟨u, hu, rfl⟩ := step_next h
  obtain ⟨hm, ho, hf⟩ := cpuClock_platform hu
  obtain ⟨-, hm', ho', -, -, -, hf', -⟩ := tickTail_effect u
  exact ⟨(tickTail_cfg u).trans (cpuClock_cfg hu), hm'.trans hm, ho'.trans ho, hf'.trans hf⟩

/-! ## The invariant -/

theorem Bus.logOk_iff (b : Bus) :
    b.logOk = true ↔ (∀ (k : Nat) (r : Record), b.log[k]? = some r → r.sequence = k) ∧ b.log.length ≤ b.seq := by
  simp only [Bus.logOk, Bool.and_eq_true, List.all_eq_true, decide_eq_true_eq, Prod.forall,
    List.mem_zipIdx_iff_getElem?]
  exact and_congr_left' forall_comm

/-- The invariant speaks of the launch parameters, the address latch and the bus alone. -/
theorem State.Inv.congr (h : s.Inv) (hc : t.cfg = s.cfg) (ha : t.addrLatch = s.addrLatch) (hb : t.bus = s.bus) :
    t.Inv where
  bus := hb ▸ h.bus
  log := hb ▸ h.log
  addresses := by
    unfold State.addressesOk
    rw [hc, ha, hb]
    exact h.addresses

/-- The bus reset empties the log and the latch, so the invariant holds as the fetch starts. -/
theorem State.Inv.fetchStart (h : s.Inv) : (fetchStart s).Inv where
  bus := h.bus
  log := rfl
  addresses hw := ⟨(h.addresses hw).1, (by decide : (0#17).toNat < 0x10000), fun _ hr => nomatch hr⟩

/-- From an empty log numbered from 0, every part of an instruction keeps the invariant. -/
theorem Evolves.inv (h : Evolves s t) (hs : s.Inv) (hlog : s.bus.log = []) (hseq : s.bus.seq = 0) : t.Inv := by
  obtain ⟨l, hl, hn, hc⟩ := h.log
  rw [hlog, List.nil_append] at hl
  rw [hseq, Nat.zero_add] at hn
  rw [hseq] at hc
  refine ⟨Bus.wf_of hs.bus h.machine.map h.machine.order h.machine.fixed (h.wf (Bus.wf_devs hs.bus)),
    (Bus.logOk_iff _).2 ⟨fun k r hk => ?_, by rw [hl, hn]⟩, fun hw => ?_⟩
  · rw [hl] at hk
    exact (hc k r hk).1.trans (Nat.zero_add k)
  · rw [h.machine.cfg] at hw
    obtain ⟨ha, hla, -⟩ := hs.addresses hw
    refine ⟨?_, h.machine.lastAddress ▸ hla, fun r hr => ?_⟩
    · rcases h.latch hw with e | e
      · exact e ▸ ha
      · exact e
    · obtain ⟨k, hk⟩ := List.mem_iff_getElem?.1 (hl ▸ hr)
      exact (hc k r hk).2 hw

theorem cpuClock_inv (h : cpuClock s = .next t) (hs : s.Inv) : t.Inv := by
  obtain ⟨u, rfl | hu, hc, ha, hb⟩ := cpuClock_evolves h
  · exact hs.congr hc ha hb
  · exact (hu.inv hs.fetchStart rfl rfl).congr hc ha hb

/-- The bus latch drops the last record, which keeps the numbering, and latches an address that was logged. -/
theorem tickTail_inv (hs : s.Inv) : (tickTail s).Inv := by
  obtain ⟨hcore, hm, ho, hseq, hlog, -, hf, hwf, hla, -⟩ := tickTail_effect s
  obtain ⟨hnum, hlen⟩ := (Bus.logOk_iff _).1 hs.log
  refine ⟨Bus.wf_of hs.bus hm ho hf (hwf (Bus.wf_devs hs.bus)), (Bus.logOk_iff _).2 ⟨fun k r hk => ?_, ?_⟩,
    fun hw => ?_⟩
  · rw [hlog, List.getElem?_dropLast] at hk
    split at hk
    · exact hnum k r hk
    · cases hk
  · rw [hlog, hseq, List.length_dropLast]
    omega
  · rw [tickTail_cfg] at hw
    obtain ⟨hal, hlast, hrec⟩ := hs.addresses hw
    refine ⟨hcore.addrLatch ▸ hal, ?_, fun r hr => hrec r (List.mem_of_mem_dropLast (hlog ▸ hr))⟩
    rw [hla]
    rcases busClock_latch s with ⟨e, -⟩ | ⟨r, hr, e, -⟩
    · exact e ▸ hlast
    · exact e ▸ hrec r hr

/-- Settles O11: the fetch empties the log, what follows numbers its records from 0, and the bus latch drops the
last. -/
theorem stepKeepsInvariant : Obligations.StepKeepsInvariant := by
  intro s t hs h
  obtain ⟨u, hu, rfl⟩ := step_next h
  exact tickTail_inv (cpuClock_inv hu hs)

end Sys2Proof.Machine
end

section
/-! The part of a tick after the CPU: the bus latch, then the hooks of every registered device (20_memory.md R71 to
R74). -/

namespace Sys2Proof.Machine

theorem busClock_of_empty {s : State} (h : s.bus.log = []) : busClock s = s := by
  simp [busClock, h]

theorem busClock_of_append {s : State} {l : List Record} {r : Record} (h : s.bus.log = l ++ [r]) :
    busClock s = { s with bus := { s.bus with log := l, lastAddress := r.address, lastData := r.data } } := by
  simp [busClock, h, State.setBus]

/-- Settles O9, from the two cases of the bus clock and what the devices' hooks keep. -/
theorem busClockPopsTheLatestRecord : Obligations.BusClockPopsTheLatestRecord := by
  intro s
  obtain ⟨-, -, -, -, hlog, -, -, -, hla, hld⟩ := tickTail_effect s
  exact ⟨fun h => ⟨by simp [busClockAvailable, h], busClock_of_empty h⟩,
    fun l r h => ⟨by simp [busClockAvailable, h], busClock_of_append h⟩, hlog, hla, hld⟩

/-- In a well-formed bus a tick runs the hooks of each device of the clock order once, on the latch. -/
theorem tickTail_devs {s : State} (hw : s.bus.wf = true) {d : Nat} {dev : Device} (hd : s.bus.devs[d]? = some dev) :
    (tickTail s).bus.devs[d]? = some (if d ∈ s.bus.order then
      { dev with body := clockBody (busClock s).bus.lastAddress (busClock s).bus.lastData dev.body } else dev) := by
  obtain ⟨hdevs, -, ho, -, -⟩ := busClock_bus s
  have hnd : s.bus.order.Nodup := by
    simp only [Bus.wf, Bus.orderOk, Bool.and_eq_true, decide_eq_true_eq] at hw
    exact hw.2.2
  unfold tickTail clockDevices
  rw [ho]
  exact foldl_clockDevice_devs hnd (hdevs ▸ hd)

/-- Settles O10, from the order without repeats and the frame of the part of a tick after the CPU. -/
theorem everyDeviceClockedOnce : Obligations.EveryDeviceClockedOnce := by
  intro s hw
  obtain ⟨hcore, hm, ho, hseq, -, hst, -, -, -, -⟩ := tickTail_effect s
  refine ⟨hcore, hm, ho, hseq, hst, fun d dev hd => ⟨tickTail_devs hw hd, ?_⟩⟩
  rintro u own _ _ _ before after _ _ hb hmem rfl rfl rfl rfl rfl
  rw [tickTail_devs hw hd, if_pos hmem, hb]
  rfl

end Sys2Proof.Machine
end

section
/-! Memory under an instruction: only the storing instructions change a byte of RAM or ROM (20_memory.md R83). -/

namespace Sys2Proof.Machine

variable {i : Instr} {s t : State}

theorem pull8q_storage (s : State) : (pull8q s).2.bus.storagePart = s.bus.storagePart := memRead8_storage _ s

theorem pull16_storage {r : Word × State} (h : pull16 s = .ok r) : r.2.bus.storagePart = s.bus.storagePart := by
  obtain ⟨a, ha, hr⟩ := Result.bind_ok.1 h
  cases hr
  exact (memRead16_accessed ha).2

theorem returnFromBreak_storage (h : returnFromBreak s = .ok t) : t.bus.storagePart = s.bus.storagePart := by
  obtain ⟨w, hw, ht⟩ := Result.bind_ok.1 h
  cases ht
  exact (pull16_storage hw).trans (memRead8_storage _ s)

/-- A byte's change makes no access. -/
theorem modifier_bus {mn : Mnemonic} {m : Byte} {r : Byte × State} (h : modifier mn m s = .ok r) : r.2.bus = s.bus := by
  rcases modifier_ok h with e | ⟨c, e⟩ <;> rw [e]
  rfl

/-- A read-modify-write of memory stores. -/
theorem storesMemory_of_modifyMem {o : Operand} (hm : i.mnemonic ∈ [.inc, .dec, .asl, .lsr, .rol, .ror])
    (ho : i.operand = some o) : i.storesMemory = true := by
  have table : ∀ m ∈ [Mnemonic.inc, .dec, .asl, .lsr, .rol, .ror],
      m ∈ [.sta, .stx, .sty, .inc, .dec, .pha, .php, .jsr, .brk] ∨ m ∈ Mnemonic.shifts := by decide
  rcases table _ hm with h | h <;> simp [Instr.storesMemory, ho, h]

/-- An instruction that is not one of the storing ones keeps every byte of RAM and ROM: all it does with the bus is
read. -/
theorem exec_storage (h : exec i s = .next t) (hn : i.storesMemory = false) :
    t.bus.storagePart = s.bus.storagePart := by
  have stores {m : Mnemonic} (hm : i.mnemonic = m) (hw : m ∈ [.sta, .stx, .sty, .inc, .dec, .pha, .php, .jsr, .brk]) :
      t.bus.storagePart = s.bus.storagePart := by simp [Instr.storesMemory, hm, hw] at hn
  cases exec_completed h with
  | load r o v _ _ hv ht | decimal o v _ _ hv _ _ ht | arith g o v _ _ hv _ _ _ _ ht | logic g o v _ _ hv _ ht
  | bit o v _ _ hv _ ht | compare r o v _ _ hv _ ht =>
    subst ht
    exact (congrArg Bus.storagePart (by simp [decimalDraw, State.setArith, State.setBitTest, State.setCompare])).trans
      (operand_effect hv).storage
  | store r o v hm _ _ _ _ =>
    have table : ∀ p ∈ Mnemonic.stores, p.1 ∈ [.sta, .stx, .sty, .inc, .dec, .pha, .php, .jsr, .brk] := by decide
    exact stores rfl (table _ hm)
  | modifyMem o v r hm ho _ _ _ => exact absurd (storesMemory_of_modifyMem hm ho) (by simp [hn])
  | modifyAcc r _ _ _ hr ht => subst ht; simp [modifier_bus hr]
  | jmp o v _ _ hv ht => subst ht; exact (resolve_effect hv).storage
  | branch g on o v _ _ hv _ ht => rcases ht with rfl | rfl | rfl <;> exact (resolve_effect hv).storage
  | pha hm _ _ _ => exact stores hm (by decide)
  | php st hm _ _ _ => exact stores hm (by decide)
  | jsr o v u hm _ _ _ _ => exact stores hm (by decide)
  | brk u hm _ _ _ => exact stores hm (by decide)
  | pla _ _ ht | plp _ _ ht => subst ht; simpa using pull8q_storage s
  | rts w _ _ hw ht => subst ht; exact pull16_storage hw
  | rti u _ _ hu ht => subst ht; exact (returnFromBreak_storage hu :)
  | transfer _ _ _ _ _ ht | tsx _ _ ht | txs _ _ _ ht | bump _ _ _ _ _ ht | flag _ _ _ _ ht | nop _ _ ht =>
    subst ht; simp

/-- Settles O20: what every instruction keeps says which devices may differ, `exec_storage` the rest. -/
theorem onlyStoresChangeMemory : Obligations.OnlyStoresChangeMemory := by
  intro i s t h
  have e := exec_evolves h
  refine ⟨e.devices, e.devices.devs, fun hn => ?_⟩
  have hst := exec_storage h hn
  exact ⟨keepsMemory_of_storage e.machine.map hst [], hst⟩

end Sys2Proof.Machine
end

section
/-! The bus accesses of the resolvers and of the operand (30_encoding.md R105, R110 to R117). -/

namespace Sys2Proof.Machine

variable {s t : State} {a : BusAddr}

theorem Accessed.logsOne {k : AccessKind} {w : Word} (h : Accessed k a w s t) : logsOne k a w s t := ⟨h.log, h.seq⟩

theorem memRead16_value {w w' : Word} (h : memRead16 a s = .ok (w, t)) (hp : s.peek16 a = some w') : w = w' := by
  rw [memRead16_of_peek16 hp] at h
  cases h
  rfl

/-- A state that keeps the core and the address latch differs in the bus and the free values used alone. -/
theorem sameRegs.eq_of_latch (h : sameRegs s t) (hl : t.addrLatch = s.addrLatch) :
    t = { s with bus := t.bus, draws := t.draws } := by
  unfold sameRegs at h
  rw [hl] at h
  exact h

/-- The sum of a zero-page base and an index, over the naturals (30_encoding.md R107). -/
theorem zpIndexed_toNat (cfg : Config) (zz i : Byte) : (zpIndexed cfg zz i).toNat =
    if cfg.zpIndexWrap = .wrap8 then (zz.toNat + i.toNat) % 256 else zz.toNat + i.toNat := by
  unfold zpIndexed
  cases cfg.zpIndexWrap with
  | wrap8 => simp; omega
  | noWrap => simp; omega

/-- The sum of a 16-bit base and an index, over the naturals (30_encoding.md R109, R113). -/
theorem indexed_toNat (cfg : Config) (base : Word) (i : Byte) : (indexed cfg base i).toNat =
    if cfg.eaOverflow = .wrap16 then (base.toNat + i.toNat) % 65536 else base.toNat + i.toNat := by
  unfold indexed
  cases cfg.eaOverflow with
  | wrap16 => simp; omega
  | float => simp; omega

theorem resolve_indX {zz : Byte} {r : Word × State} (hx : s.regWritten .x = true)
    (hr : memRead16 (zpIndexed s.cfg zz s.x) s = .ok r) :
    resolve (.indX zz) s = .ok (resolvedAt (r.1.setWidth 17) r.2) := by
  simp only [resolve, readReg_of hx, Result.ok_bind, readPtr, State.reg, hr]
  rfl

theorem resolve_indY {zz : Byte} {r : Word × State} (hy : s.regWritten .y = true)
    (hr : memRead16 (zz.setWidth 17) s = .ok r) : resolve (.indY zz) s = .ok (resolvedIndexed r.1 s.y r.2) := by
  have e := (memRead16_accessed hr).1.core
  have hread : readReg .y r.2 = .ok s.y := by
    rw [readReg_of ((e.regWritten .y).trans hy), e.reg]
    rfl
  simp only [resolve, readPtr, hr, Result.ok_bind, hread]
  rfl

theorem resolve_ind {addr : Word} {r : Word × State} (hr : memRead16 (addr.setWidth 17) s = .ok r) :
    resolve (.ind addr) s = .ok (resolvedAt (r.1.setWidth 17) r.2) := by
  simp only [resolve, readPtr, hr]
  rfl

theorem setWidth_word_toNat (w : Word) : (w.setWidth 17 : BusAddr).toNat = w.toNat := by
  simp
  omega

/-- Settles O25: the pointer read is one short read of the bus, and each resolver is the equation of its mode. -/
theorem indirectResolvers : Obligations.IndirectResolvers := by
  refine ⟨fun s p w w' u h => ?_, fun s p w h => ⟨_, memRead16_of_peek16 h⟩, fun s zz addr w u => ⟨?indX, ?indY, ?ind⟩⟩
  · obtain ⟨e, hst⟩ := memRead16_accessed h
    exact ⟨e.logsOne, memRead16_value h, e.core.eq_of_latch e.latch, hst, e.map, e.order, e.lastAddress, e.lastData⟩
  case indX =>
    intro p hx hr hp
    obtain rfl : p = zpIndexed s.cfg zz s.x := BitVec.eq_of_toNat_eq (hp.trans (zpIndexed_toNat _ _ _).symm)
    exact ⟨_, resolve_indX hx hr, setWidth_word_toNat w, rfl, rfl⟩
  case indY =>
    intro hy hr
    have hcfg : u.cfg = s.cfg := (memRead16_accessed hr).1.core.cfg
    refine ⟨_, resolve_indY hy hr, ?_, ?_, rfl⟩
    · rw [← hcfg]
      exact indexed_toNat u.cfg w s.y
    · rw [← hcfg]
      exact decide_eq_true_iff
  case ind =>
    intro hr
    exact ⟨_, resolve_ind hr, setWidth_word_toNat w, rfl, rfl⟩

theorem memRead8_unmapped (h : s.bus.deviceAt a = none) : memRead8 a s = (0xFF#8, s.record .read a 0x00FF#16) := by
  simp [memRead8, h]

/-- Every operand but an immediate is one byte read at the effective address (30_encoding.md R117). -/
theorem readOperand_of_not_imm {o : Operand} (h : ∀ n, o ≠ .imm n) (v : Resolved) :
    readOperand o v = memRead8 v.value v.state := by
  cases o
  case imm n => exact absurd rfl (h n)
  all_goals rfl

theorem Bus.deviceAt_none_congr {b c : Bus} (hm : c.map = b.map) (hs : c.storagePart = b.storagePart)
    (h : b.deviceAt a = none) : c.deviceAt a = none := by
  have := Bus.deviceAt_storage hm hs a
  rw [h] at this
  exact Option.map_eq_none_iff.1 this

/-- Settles O27: the resolver keeps the map and the storage, so the read after it answers what the state before
showed. -/
theorem operandAccess : Obligations.OperandAccess := by
  refine fun o s v hv => ⟨?_, fun hn => ?_⟩
  · rintro n rfl
    cases hv
    simp [readOperand, resolvedAt]
  · have e := resolve_effect hv
    rw [readOperand_of_not_imm hn]
    refine ⟨(memRead8_accessed _ _).logsOne, fun m hm => ?_, fun hd => ?_⟩
    · rw [memRead8_of_peek ((State.peek_congr e.map e.storage v.value).trans hm)]
    · rw [memRead8_unmapped (Bus.deviceAt_none_congr e.map e.storage hd)]

end Sys2Proof.Machine
end

section
/-! Byte and short accesses to RAM: what was written is read back (20_memory.md R61, R63, R66, R68, R75). -/

namespace Sys2Proof.Machine

variable {s t : State} {a : BusAddr}

theorem storedAs_of_isRam (h : s.isRam a = true) (v : Byte) : storedAs s a v = some v := if_pos h

/-- Settles O28, from what a byte write leaves at each address and what a read of a byte the state shows answers. -/
theorem ramReturnsTheByteWritten : Obligations.RamReturnsTheByteWritten := by
  intro s a v hw
  have hsame := memWrite8_peek_same (a := a) v (Bus.wf_devs hw)
  refine ⟨hsame, fun b hb => memWrite8_peek_other v s (List.ne_of_not_mem_cons hb),
    (memWrite8_accessed a v s).logsOne, fun hr => ?_⟩
  have hread := memRead8_of_peek (hsame.trans (storedAs_of_isRam hr v))
  have hone := (memRead8_accessed a (memWrite8 a v s)).logsOne
  rw [hread] at hone ⊢
  exact ⟨rfl, hone⟩

/-- Settles O30, from the two bytes a short write stores, read back one by one and together. -/
theorem shortsAreLittleEndian : Obligations.ShortsAreLittleEndian := by
  intro s t a w hw h ho hr hr'
  have e := memWrite16_accessed h
  obtain ⟨hlo, hhi⟩ := memWrite16_stores hw h
  rw [storedAs_of_isRam hr] at hlo
  rw [storedAs_of_isRam hr'] at hhi
  have howner : t.sameOwner a (a + 1) := by
    unfold State.sameOwner
    rw [Bus.owner_congr e.map, Bus.owner_congr e.map]
    exact ho
  have hram : t.isRam a = true := (State.isRam_fixed e.map e.fixed a).trans hr
  have hshort := peek16_of_peeks (e.busWf hw) howner hram hlo (hhi ho)
  rw [joinLE_bytes] at hshort
  refine ⟨by rw [memRead8_of_peek hlo]; rfl, by rw [memRead8_of_peek (hhi ho)]; rfl, ⟨_, memRead16_of_peek16 hshort⟩,
    fun b hb => ?_⟩
  have hframe : Frame [] [] [a, a + 1] s t := (Frame.refl _ _ _ s).memWrite16 (by simp) (by simp) h
  exact hframe.memory b hb

end Sys2Proof.Machine
end

section
/-! Accesses that reach no RAM: unmapped addresses float and drop, a ROM discards, a peripheral answers by its own
functions (20_memory.md R62, R64, R66 to R69, R78). -/

namespace Sys2Proof.Machine

variable {s : State} {a : BusAddr} {d : Nat} {dev : Device}

theorem logsOne_record (s : State) (k : AccessKind) (a : BusAddr) (w : Word) : logsOne k a w s (s.record k a w) :=
  ⟨rfl, rfl⟩

theorem memWrite8_unmapped (h : s.bus.deviceAt a = none) (v : Byte) :
    memWrite8 a v s = s.record .write a (v.setWidth 16) := by
  simp [memWrite8, h]

theorem memWrite16_unmapped (h : s.bus.deviceAt a = none) (w : Word) :
    memWrite16 a w s = .ok (s.record .write a w) := by
  simp [memWrite16, h]

theorem memWrite8_rom {m : Memory} (h : s.bus.deviceAt a = some (d, dev)) (hb : dev.body = .rom m) (v : Byte) :
    memWrite8 a v s = s.record .write a (v.setWidth 16) := by
  simp [memWrite8, h, deviceWrite8, hb]

theorem memWrite16_rom {m : Memory} (h : s.bus.deviceAt a = some (d, dev)) (hb : dev.body = .rom m)
    (hf : dev.shortFits a.toNat = true) (w : Word) : memWrite16 a w s = .ok (s.record .write a w) := by
  simp [memWrite16, h, hf, deviceWrite16, hb]

section
variable {u : Nat} {own : List Byte} {before after : Bool}

theorem memRead8_peripheral (h : s.bus.deviceAt a = some (d, dev)) (hb : dev.body = .peripheral u own before after) :
    memRead8 a s = ((Config.peripheralRead8 u own a).1,
      (s.setBody d (.peripheral u (Config.peripheralRead8 u own a).2 before after)).record .read a
        ((Config.peripheralRead8 u own a).1.setWidth 16)) := by
  simp [memRead8, h, deviceRead8, hb]

theorem memRead16_of_peripheral (h : s.bus.deviceAt a = some (d, dev))
    (hb : dev.body = .peripheral u own before after) (hf : dev.shortFits a.toNat = true) :
    memRead16 a s = .ok ((Config.peripheralRead16 u own a).1,
      (s.setBody d (.peripheral u (Config.peripheralRead16 u own a).2 before after)).record .read a
        (Config.peripheralRead16 u own a).1) := by
  simp [memRead16, h, hf, deviceRead16, hb]

theorem memWrite8_peripheral (h : s.bus.deviceAt a = some (d, dev)) (hb : dev.body = .peripheral u own before after)
    (v : Byte) : memWrite8 a v s =
      (s.setBody d (.peripheral u (Config.peripheralWrite8 u own a v) before after)).record .write a
        (v.setWidth 16) := by
  simp [memWrite8, h, deviceWrite8, hb]

theorem memWrite16_peripheral (h : s.bus.deviceAt a = some (d, dev)) (hb : dev.body = .peripheral u own before after)
    (hf : dev.shortFits a.toNat = true) (w : Word) : memWrite16 a w s =
      .ok ((s.setBody d (.peripheral u (Config.peripheralWrite16 u own a w) before after)).record .write a w) := by
  simp [memWrite16, h, hf, deviceWrite16, hb]

theorem record_setBody_devs (hd : s.bus.devs[d]? = some dev) (body : DeviceBody) (k : AccessKind) (w : Word) :
    ((s.setBody d body).record k a w).bus.devs = s.bus.devs.set d { dev with body := body } := by
  simp [Bus.setBody_devs body hd]

theorem logsOne_record_setBody (s : State) (d : Nat) (body : DeviceBody) (k : AccessKind) (a : BusAddr) (w : Word) :
    logsOne k a w s ((s.setBody d body).record k a w) := by
  simp [logsOne]

end

/-- Settles O29, from one equation for each access to an unmapped address, a ROM and a peripheral. -/
theorem unmappedReadsFloatAndDeadWritesDrop : Obligations.UnmappedReadsFloatAndDeadWritesDrop := by
  refine fun s a => ⟨fun h => ?unmapped, fun d dev m h hb => ?rom, fun d dev u own before after h hb => ?peripheral⟩
  case unmapped =>
    rw [memRead8_unmapped h]
    refine ⟨rfl, logsOne_record .., ⟨_, memRead16_of_unmapped h, logsOne_record ..⟩, fun v => ?_, fun w => ?_⟩
    · rw [memWrite8_unmapped h]
      exact ⟨rfl, logsOne_record ..⟩
    · exact ⟨_, memWrite16_unmapped h w, rfl, logsOne_record ..⟩
  case rom =>
    refine ⟨fun v => ?_, fun hf w => ⟨_, memWrite16_rom h hb hf w, rfl, logsOne_record ..⟩⟩
    rw [memWrite8_rom h hb]
    exact ⟨rfl, logsOne_record ..⟩
  case peripheral =>
    have hd := (Bus.deviceAt_some h).2
    rw [memRead8_peripheral h hb]
    refine ⟨rfl, record_setBody_devs hd .., logsOne_record_setBody .., fun v => ?_, fun hf => ⟨?_, fun w => ?_⟩⟩
    · rw [memWrite8_peripheral h hb]
      exact ⟨record_setBody_devs hd .., logsOne_record_setBody ..⟩
    · exact ⟨_, _, memRead16_of_peripheral h hb hf, rfl, record_setBody_devs hd .., logsOne_record_setBody ..⟩
    · exact ⟨_, memWrite16_peripheral h hb hf w, record_setBody_devs hd .., logsOne_record_setBody ..⟩

end Sys2Proof.Machine
end

section
/-! A short past its device: in an access, in each instruction that makes one, and in a fetch (20_memory.md R65,
R77). -/

namespace Sys2Proof.Machine

variable {s : State} {a : BusAddr}

theorem Bus.shortFits_of_deviceAt {b : Bus} {d : Nat} {dev : Device} (h : b.deviceAt a = some (d, dev)) :
    b.shortFits a = decide (a.toNat + 1 < dev.base + dev.size) := by
  simp [Bus.shortFits, h, Device.shortFits]

theorem Bus.shortFits_of_unmapped {b : Bus} (h : b.deviceAt a = none) : b.shortFits a = true := by
  simp [Bus.shortFits, h]

/-- An indirect resolver whose pointer does not fit faults with nothing done. -/
theorem resolve_of_pointer_not_fits {o : Operand} (hp : o.pointer s = some a)
    (hx : ∀ zz, o = .indX zz → s.regWritten .x = true) (hf : s.bus.shortFits a = false) :
    resolve o s = .error (.shortPastDevice s) := by
  have hread := memRead16_of_not_fits hf
  cases o with
  | indX zz => cases hp; simp [resolve, readReg_of (hx zz rfl), readPtr, State.reg, hread]
  | indY zz => cases hp; simp [resolve, readPtr, hread]
  | ind addr => cases hp; simp [resolve, readPtr, hread]
  | imm _ | zp _ | zpX _ | zpY _ | abs _ | absX _ | absY _ | rel _ => cases hp

/-! ## The stack's shorts -/

theorem push16_of_not_fits (w : Word) (h : s.bus.shortFits (stackAddr s.cfg (s.sp - 2)) = false) :
    push16 w s = .error (.shortPastDevice (s.setSp (s.sp - 2))) :=
  memWrite16_of_not_fits (s := s.setSp (s.sp - 2)) h

theorem push16_of_fits (w : Word) (h : s.bus.shortFits (stackAddr s.cfg (s.sp - 2)) = true) :
    ∃ t, push16 w s = .ok t :=
  memWrite16_of_fits (s := s.setSp (s.sp - 2)) w h

theorem pull16_of_not_fits (h : s.bus.shortFits (stackAddr s.cfg s.sp) = false) :
    pull16 s = .error (.shortPastDevice s) := by
  simp [pull16, memRead16_of_not_fits h]

theorem exec_jsr_of_not_fits (addr : Word) (h : s.bus.shortFits (stackAddr s.cfg (s.sp - 2)) = false) :
    exec (.jsr addr) s = .fault (.shortPastDevice { s with addrLatch := addr.setWidth 17, sp := s.sp - 2 }) := by
  have hpush := push16_of_not_fits (s := s.setAddrLatch (addr.setWidth 17)) (s.pc - s.cfg.jsrRetBias) h
  simp only [exec, execJsr, jumpSubroutine, resolve, Result.ok_bind, resolvedAt, State.setAddrLatch_pc, hpush]
  rfl

theorem exec_rts_of_not_fits (h : s.bus.shortFits (stackAddr s.cfg s.sp) = false) :
    exec .rts s = .fault (.shortPastDevice s) := by
  simp [exec, execRts, returnSubroutine, pull16_of_not_fits h, outcome]

/-- RTI has read P from the stack, and written it, when its short faults. -/
theorem returnFromBreak_of_not_fits (h : s.bus.shortFits (stackAddr s.cfg (s.sp + 1)) = false) :
    returnFromBreak s = .error (.shortPastDevice (((memRead8 (stackAddr s.cfg s.sp) s).2.setP
      (memRead8 (stackAddr s.cfg s.sp) s).1).setSp (s.sp + 1))) := by
  have e := memRead8_effect (stackAddr s.cfg s.sp) s
  have hf : (memRead8 (stackAddr s.cfg s.sp) s).2.bus.shortFits
      (stackAddr (memRead8 (stackAddr s.cfg s.sp) s).2.cfg (s.sp + 1)) = false := by
    rw [e.core.cfg, Bus.shortFits_congr e.map e.storage]
    exact h
  have hpull := pull16_of_not_fits (s := ((memRead8 (stackAddr s.cfg s.sp) s).2.setP
    (memRead8 (stackAddr s.cfg s.sp) s).1).setSp (s.sp + 1)) hf
  simp only [returnFromBreak, hpull, Result.error_bind]

theorem exec_rti_of_not_fits (h : s.bus.shortFits (stackAddr s.cfg (s.sp + 1)) = false) :
    exec .rti s = .fault (.shortPastDevice (((memRead8 (stackAddr s.cfg s.sp) s).2.setP
      (memRead8 (stackAddr s.cfg s.sp) s).1).setSp (s.sp + 1))) := by
  simp only [exec, execRti, returnInterrupt, returnFromBreak_of_not_fits h, Result.error_bind]
  rfl

/-! ## BRK -/

theorem exec_brk_of_stack_not_fits (h : s.bus.shortFits (stackAddr s.cfg (s.sp - 2)) = false) (hr : s.statusReadable) :
    exec .brk s = .fault (.shortPastDevice { s with sp := s.sp - 2 }) := by
  simp only [exec, execBrk, breakEntry, takeBreak, pushedStatus_of hr, Result.ok_bind, push16_of_not_fits _ h]
  rfl

/-- BRK has pushed the return address and P, and set I, when the read of its vector faults. -/
theorem exec_brk_of_vector_not_fits {s1 : State} (hr : s.statusReadable) (hp : push16 (s.pc + 1) s = .ok s1)
    (hv : s.bus.shortFits (s.cfg.brkVector.setWidth 17) = false) :
    exec .brk s = .fault (.shortPastDevice ((push8 (s.p ||| s.cfg.phpMask) s1).setFlag .i true)) := by
  have e : Evolves s ((push8 (s.p ||| s.cfg.phpMask) s1).setFlag .i true) :=
    (((Evolves.refl s).push16 hp).push8 _).setFlag _ _
  have hread := memRead16_of_not_fits ((e.shortFits (s.cfg.brkVector.setWidth 17)).trans hv)
  simp only [exec, execBrk, breakEntry, takeBreak, pushedStatus_of hr, Result.ok_bind, hp, e.machine.cfg, hread]
  rfl

/-! ## The fetch -/

/-- A three-byte opcode takes its operand as one word (30_encoding.md R104). -/
theorem build_of_length_three {opc : Byte} {row : Row} (h : rowOf? opc = some row) (hl : instrLength opc = 3) :
    ∃ f, row.build = .word f := by
  have hbytes : row.bytes = 3 := by simpa [instrLength, h] using hl
  have he := (rowOf?_some h).1
  unfold Row.Encodes at he
  cases hb : row.build with
  | none j => rw [hb] at he; omega
  | byte f => rw [hb] at he; omega
  | word f => exact ⟨f, rfl⟩

theorem rowOf?_of_descriptor {cfg : Config} {opc : Byte} {row : Row} (h : descriptor cfg opc = some row) :
    rowOf? opc = some row := by
  unfold descriptor at h
  split at h
  · cases h
  · exact h

/-- A Fetch tick whose operand word is past its device ends once the opcode has been fetched. -/
theorem step_of_operand_not_fits (hp : s.pending = 0) {row : Row}
    (hd : descriptor s.cfg (fetch8 (busReset s)).1 = some row) (hl : instrLength (fetch8 (busReset s)).1 = 3)
    (hf : s.bus.shortFits ((s.pc + 1).setWidth 17) = false) : step s = .fault (.shortPastDevice (opcodeFetched s)) := by
  obtain ⟨f, hb⟩ := build_of_length_three (rowOf?_of_descriptor hd) hl
  have hpc : pcAddr (opcodeFetched s) = (s.pc + 1).setWidth 17 := by
    rw [pcAddr, (opcodeFetched_effect s).2.2.2.1]
  have hword : fetchOperand (.word f) (opcodeFetched s) = .error (.shortPastDevice (opcodeFetched s)) := by
    simp only [fetchOperand, fetch16, hpc, memRead16_of_not_fits ((opcodeFetched_shortFits s _).trans hf),
      Result.error_bind]
  have hfetch : fetchInstr s = .error (.shortPastDevice (opcodeFetched s)) := by
    unfold fetchInstr
    simp only [hd, hb]
    exact hword
  simp [step, cpuClock, hp, hfetch]

/-- Settles O31: whether a short fits is read off the device of its address, and each instruction's fault is that of the
first of its shorts that does not. -/
theorem shortPastItsDeviceFaults : Obligations.ShortPastItsDeviceFaults := by
  refine ⟨fun s a w => ⟨fun d dev h hlt => ?past, fun d dev h hlt => ?inside, fun h => ?unmapped⟩, fun s =>
    ⟨fun i o p ho hp hx hf => ?pointer, fun addr h => exec_jsr_of_not_fits addr h, exec_rts_of_not_fits, fun h => ?rti,
      exec_brk_of_stack_not_fits, fun h hr hv => ?vector, fun opc u hp hfetch hd hl hf => ?fetch⟩⟩
  case past =>
    have hf : s.bus.shortFits a = false := by
      rw [Bus.shortFits_of_deviceAt h, decide_eq_false_iff_not]
      omega
    exact ⟨hf, memRead16_of_not_fits hf, memWrite16_of_not_fits hf⟩
  case inside =>
    have hf : s.bus.shortFits a = true := by
      rw [Bus.shortFits_of_deviceAt h]
      exact decide_eq_true hlt
    exact ⟨hf, memRead16_of_fits hf, memWrite16_of_fits w hf⟩
  case unmapped =>
    have hf := Bus.shortFits_of_unmapped h
    exact ⟨hf, memRead16_of_fits hf, memWrite16_of_fits w hf⟩
  case pointer => exact exec_of_resolve_error ho (resolve_of_pointer_not_fits hp hx hf)
  case rti => exact ⟨_, _, rfl, exec_rti_of_not_fits h⟩
  case vector =>
    obtain ⟨s1, h1⟩ := push16_of_fits (s.pc + 1) h
    exact ⟨s1, h1, exec_brk_of_vector_not_fits hr h1 hv⟩
  case fetch =>
    have hopc : (fetch8 (busReset s)).1 = opc := by rw [hfetch]
    have hu : opcodeFetched s = u.setOpcode opc := by rw [opcodeFetched, hfetch]
    obtain ⟨row, hrow⟩ := Option.ne_none_iff_exists'.1 hd
    rw [← hu]
    exact step_of_operand_not_fits hp (hopc ▸ hrow) (hopc ▸ hl) hf

end Sys2Proof.Machine
end

section
/-! Assembly: registration and the bulk load (20_memory.md R52 to R56, R64). -/

namespace Sys2Proof.Machine

/-- `b` with the base of device `d`, which is `dev`, moved to `first` (20_memory.md R52; log 21). -/
def Bus.rebase (b : Bus) (d first : Nat) (dev : Device) : Bus :=
  { b with devs := b.devs.set d { dev with base := first } }

theorem registerAuto_of_le {b : Bus} {first d : Nat} {dev : Device} (hd : b.devs[d]? = some dev)
    (h : first + dev.size ≤ 0x10000) : registerAuto first d b =
      .ok ⟨(b.rebase d first dev).mapRange d first dev.size, b.conflicts first dev.size⟩ := by
  simp [registerAuto, Bus.rebase, hd, Nat.not_lt.2 h]

theorem registerAtOffset_of_lt {b : Bus} {a d : Nat} {dev : Device} (hd : b.devs[d]? = some dev) (h : a < 0x10000) :
    registerAtOffset a d b = .ok ⟨b.mapRange d a 1, b.conflicts a 1⟩ := by
  simp [registerAtOffset, hd, Nat.not_lt.2 (Nat.le_of_lt_succ h)]

/-- Settles O32: both registrations are `Bus.mapRange` behind a bound, and `registers_mapRange` says what that does. -/
theorem firstRegistrationWins : Obligations.FirstRegistrationWins := by
  refine fun b first d dev hd => ⟨fun h => ?_, fun h => ⟨_, registerAuto_of_le hd h, ?_, rfl⟩, fun h => ?_,
    fun h => ⟨_, registerAtOffset_of_lt hd h, ?_, rfl⟩⟩
  · simp [registerAuto, hd, h]
  · exact registers_mapRange (c := b.rebase d first dev) (b := b) rfl rfl rfl rfl rfl rfl d first dev.size
  · simp [registerAtOffset, hd, Nat.lt_of_succ_le h]
  · exact registers_mapRange rfl rfl rfl rfl rfl rfl d first 1

section
variable {d : Nat} {dev : Device}

/-- A byte of a ROM reads back, and a write to it changes nothing (20_memory.md R64). -/
theorem rom_reads_back {s : State} {m : Memory} {k : Nat} {a : BusAddr} (hs : s.bus.deviceAt a = some (d, dev))
    (hb : dev.body = .rom m) (ha : dev.offset a.toNat = some k) :
    (memRead8 a s).1 = m.get k ∧ ∀ w, (memRead8 a (memWrite8 a w s)).1 = m.get k := by
  have hpeek : s.peek a = some (m.get k) := by simp [State.peek, hs, hb, ha]
  refine ⟨by rw [memRead8_of_peek hpeek], fun w => ?_⟩
  rw [memWrite8_rom hs hb, memRead8_of_peek (v := m.get k)]
  exact hpeek

theorem Device.offset_add {k : Nat} (h : k < dev.size) : dev.offset (dev.base + k) = some k := by
  simp [Device.offset, h]

end

/-- Settles O33: a ROM's new store is `romContents`, a RAM's the old one with the image set from offset 0. -/
theorem romImageReadsBack : Obligations.RomImageReadsBack := by
  refine fun b d dev fill image hd => ⟨fun h => ?tooLarge, fun h => ⟨fun m hb => ?rom, fun m hb hm => ?ram,
    fun u own before after hb => ?peripheral⟩⟩
  case tooLarge => simp [loadImage, hd, h]
  case rom =>
    obtain ⟨hwf, hin, hget⟩ := romContents_spec dev.size fill image
    refine ⟨romContents dev.size fill image, by simp [loadImage, hd, hb, Nat.not_lt.2 h], hwf, hin, hget, ?_⟩
    intro s k v a hs hk ho ha
    have hlt : k < dev.size := (List.getElem?_eq_some_iff.1 hk).1.trans_le h
    have hdev : s.bus.deviceAt a = some (d, { dev with body := .rom (romContents dev.size fill image) }) := by
      rw [hs, Bus.deviceAt_setBody _ hd, Bus.deviceAt_of ho hd]
      simp
    have hv : (romContents dev.size fill image).get k = v := by simp [hget k hlt, hk]
    rw [← hv]
    exact rom_reads_back hdev rfl (ha ▸ Device.offset_add hlt)
  case ram =>
    exact ⟨m.setAll 0 image, by simp [loadImage, hd, hb, Nat.not_lt.2 h], Memory.wf_setAll 0 image hm,
      fun k => (Memory.get_setAll hm 0 image k).trans (if_neg (Nat.not_lt_zero k))⟩
  case peripheral => simp [loadImage, hd, hb, Nat.not_lt.2 h]

end Sys2Proof.Machine
end

section
/-! The decoder and the encoder are inverse to each other: bytes decode to an instruction and a rest exactly when they
are the instruction's encoding followed by the rest (30_encoding.md R100, R101, R120 to R124). -/

namespace Sys2Proof

/-- The instructions a table row can build: its own, or one for each value of its operand bytes (R101). -/
inductive Build.Makes : Build → Instr → Prop where
  | none (i : Instr) : Makes (.none i) i
  | byte (f : Byte → Instr) (v : Byte) : Makes (.byte f) (f v)
  | word (f : Word → Instr) (w : Word) : Makes (.word f) (f w)

/-- The row of an instruction's opcode builds the instruction, for each constructor (R120, R122). -/
theorem rowOf?_makes (i : Instr) : ∃ r, rowOf? i.opcode = some r ∧ r.build.Makes i := by
  cases i <;> simp only [Instr.opcode] <;> refine ⟨_, rfl, ?_⟩ <;> constructor

/-- A row reads exactly the encodings of the instructions it builds. -/
theorem Row.read_iff {r : Row} (he : r.Encodes) (bytes : List Byte) (i : Instr) (rest : List Byte) :
    r.build.read r.opcode bytes = .ok (i, rest) ↔ r.build.Makes i ∧ r.opcode :: bytes = encode i ++ rest := by
  unfold Row.Encodes at he
  cases hb : r.build with
  | none j =>
    rw [hb] at he
    constructor
    · intro h
      cases h
      exact ⟨.none i, by rw [he.1]; rfl⟩
    · rintro ⟨⟨⟩, h⟩
      rw [he.1] at h
      cases h
      rfl
  | byte f =>
    rw [hb] at he
    constructor
    · intro h
      obtain - | ⟨v, bytes⟩ := bytes <;> cases h
      exact ⟨.byte f v, by rw [he.1]; rfl⟩
    · rintro ⟨⟨⟩, h⟩
      rw [he.1] at h
      cases h
      rfl
  | word f =>
    rw [hb] at he
    constructor
    · intro h
      obtain - | ⟨lo, - | ⟨hi, bytes⟩⟩ := bytes <;> cases h
      exact ⟨.word f _, by rw [he.1, lowByte_joinLE, highByte_joinLE]; rfl⟩
    · rintro ⟨⟨⟩, h⟩
      rw [he.1] at h
      cases h
      simp [Build.read]

theorem decode_of_rowOf? {opc : Byte} {r : Row} (h : rowOf? opc = some r) (bytes : List Byte) :
    decode (opc :: bytes) = r.build.read opc bytes := by
  simp [decode, h]

theorem decode_of_undocumented {opc : Byte} (h : rowOf? opc = none) (bytes : List Byte) :
    decode (opc :: bytes) = .error (.unknownOpcode opc) := by
  simp [decode, h]

theorem decode_cons_iff {opc : Byte} {r : Row} (h : rowOf? opc = some r) (bytes : List Byte) (i : Instr)
    (rest : List Byte) :
    decode (opc :: bytes) = .ok (i, rest) ↔ r.build.Makes i ∧ opc :: bytes = encode i ++ rest := by
  obtain ⟨he, rfl⟩ := rowOf?_some h
  rw [decode_of_rowOf? h, Row.read_iff he]

/-- The decoder answers exactly the encodings. -/
theorem decode_eq_ok_iff (bytes : List Byte) (i : Instr) (rest : List Byte) :
    decode bytes = .ok (i, rest) ↔ bytes = encode i ++ rest := by
  constructor
  · intro h
    cases bytes with
    | nil => cases h
    | cons opc bytes =>
      cases hr : rowOf? opc with
      | none => rw [decode_of_undocumented hr] at h; cases h
      | some r => exact ((decode_cons_iff hr bytes i rest).1 h).2
  · rintro rfl
    obtain ⟨r, hr, hm⟩ := rowOf?_makes i
    exact (decode_cons_iff hr _ i rest).2 ⟨hm, rfl⟩

/-- Settles O1: an encoding followed by any rest is what `decode_eq_ok_iff` says decodes. -/
theorem decodeAfterEncode : Obligations.DecodeAfterEncode :=
  fun i rest _ => (decode_eq_ok_iff _ i rest).2 rfl

/-- Settles O2, the other direction of `decode_eq_ok_iff`. -/
theorem encodeAfterDecode : Obligations.EncodeAfterDecode :=
  fun bytes i rest => (decode_eq_ok_iff bytes i rest).1

/-! ## What the opcode alone says -/

theorem opcode_of_decode {opc : Byte} {bytes : List Byte} {i : Instr} {rest : List Byte}
    (h : decode (opc :: bytes) = .ok (i, rest)) : i.opcode = opc :=
  (List.cons.inj ((decode_eq_ok_iff _ i rest).1 h)).1.symm

theorem documented_eq_false_iff (opc : Byte) : documented opc = false ↔ rowOf? opc = none := by
  simp [documented]

theorem encode_length (i : Instr) : (encode i).length = instrLength i.opcode := by
  obtain ⟨r, hr, -, -, hlen⟩ := rowOf?_opcode i
  simp [instrLength, hr, hlen]

theorem Operand.bytes_length_le_two (o : Operand) : o.bytes.length ≤ 2 := by
  cases o <;> simp [Operand.bytes]

theorem encode_length_bounds (i : Instr) : 1 ≤ (encode i).length ∧ (encode i).length ≤ 3 := by
  unfold encode
  cases i.operand with
  | none => simp
  | some o => exact ⟨Nat.succ_pos _, Nat.succ_le_succ o.bytes_length_le_two⟩

/-- Settles O4: the row's bytes column is the encoding's length, and what decodes is an encoding with a rest. -/
theorem lengthFromOpcodeAlone : Obligations.LengthFromOpcodeAlone := by
  refine ⟨fun i => ?_, fun opc bytes i rest h => ?_, fun opc h => ?_⟩
  · rw [← encode_length]
    exact ⟨rfl, encode_length_bounds i⟩
  · rw [(decode_eq_ok_iff _ i rest).1 h, List.length_append, encode_length, opcode_of_decode h]
  · simp [instrLength, (documented_eq_false_iff opc).1 h]

/-- Two operand bytes are enough for every row. -/
theorem decode_of_documented {opc : Byte} (h : documented opc = true) (lo hi : Byte) :
    ∃ i rest, decode [opc, lo, hi] = .ok (i, rest) := by
  obtain ⟨r, hr⟩ := Option.isSome_iff_exists.1 h
  rw [decode_of_rowOf? hr]
  cases r.build <;> exact ⟨_, _, rfl⟩

/-- What is not listed as undocumented is counted as documented. -/
theorem countP_documented {l m : List Byte} {n : Nat} (hm : m = l.filter fun opc => !documented opc)
    (hn : l.length = m.length + n) : l.countP documented = n := by
  have hsum := List.length_eq_countP_add_countP documented (l := l)
  have hlen : l.countP (fun opc => !documented opc) = m.length := by rw [hm, List.countP_eq_length_filter]
  simp only [Bool.not_eq_true, Bool.decide_eq_false] at hsum
  omega

/-- Settles O3: the map is read opcode by opcode; the bytes after the opcode matter to a documented opcode alone. -/
theorem undocumentedOpcodesRefused : Obligations.UndocumentedOpcodesRefused := by
  refine ⟨?list, countP_documented ?list (by simp), fun opc rest h => ?_, fun opc lo hi h => ?_⟩
  · decide
  · exact decode_of_undocumented ((documented_eq_false_iff opc).1 h) rest
  · obtain ⟨i, rest, hd⟩ := decode_of_documented h lo hi
    exact ⟨i, rest, hd, opcode_of_decode hd⟩

/-- Settles O5, by evaluation. -/
theorem specWordsDecode : Obligations.SpecWordsDecode := by
  refine ⟨rfl, rfl, rfl, rfl, rfl, rfl, rfl, rfl, rfl, rfl, rfl, rfl⟩

end Sys2Proof
end

section
/-! The resolvers without a pointer, and what every instruction leaves in `addr_latch` (30_encoding.md R105 to R109,
R112, R115, R119). -/

namespace Sys2Proof.Machine

theorem setWidth_byte_toNat (b : Byte) : (b.setWidth 17 : BusAddr).toNat = b.toNat := by
  simp
  omega

/-- Settles O23: the resolver returns the operand, zero-extended, and writes `addr_latch`. -/
theorem unindexedResolvers : Obligations.UnindexedResolvers := by
  refine fun s b w => ⟨resolvedAt (b.setWidth 17) s, resolvedAt (b.setWidth 17) s, resolvedAt (w.setWidth 17) s,
    resolvedAt (b.setWidth 17) s, rfl, rfl, rfl, rfl, setWidth_byte_toNat b, setWidth_byte_toNat b,
    setWidth_word_toNat w, setWidth_byte_toNat b, ?_⟩
  simp [resolvedAt, State.setAddrLatch]

section
variable {s : State}

theorem resolve_zpX {b : Byte} (h : s.regWritten .x = true) :
    resolve (.zpX b) s = .ok (resolvedAt (zpIndexed s.cfg b (s.reg .x)) s) := by
  simp only [resolve, readReg_of h]
  rfl

theorem resolve_zpY {b : Byte} (h : s.regWritten .y = true) :
    resolve (.zpY b) s = .ok (resolvedAt (zpIndexed s.cfg b (s.reg .y)) s) := by
  simp only [resolve, readReg_of h]
  rfl

theorem resolve_absX {w : Word} (h : s.regWritten .x = true) :
    resolve (.absX w) s = .ok (resolvedIndexed w (s.reg .x) s) := by
  simp only [resolve, readReg_of h]
  rfl

theorem resolve_absY {w : Word} (h : s.regWritten .y = true) :
    resolve (.absY w) s = .ok (resolvedIndexed w (s.reg .y) s) := by
  simp only [resolve, readReg_of h]
  rfl

end

theorem resolvedIndexed_crossed_iff (base : Word) (i : Byte) (s : State) :
    (resolvedIndexed base i s).crossed = true ↔
      base.toNat / s.cfg.pageDivisor ≠ (resolvedIndexed base i s).value.toNat / s.cfg.pageDivisor :=
  decide_eq_true_iff

/-- An address past 16 bits, as `FLOAT` can make one, belongs to no device (R109, 20_memory.md R55). -/
theorem Bus.deviceAt_of_past {b : Bus} {a : BusAddr} (hw : b.wf = true) (h : 0x10000 ≤ a.toNat) :
    b.deviceAt a = none := by
  by_contra hd
  obtain ⟨⟨d, dev⟩, hd⟩ := Option.ne_none_iff_exists'.1 hd
  have := Bus.owner_lt hw (Bus.deviceAt_some hd).1
  omega

/-- Settles O24: each mode is one equation, whose sum is `zpIndexed_toNat` or `indexed_toNat`. -/
theorem indexedResolvers : Obligations.IndexedResolvers := by
  refine ⟨fun s b w o r hr ho => ?_, fun s hw _ a ha => Bus.deviceAt_of_past hw ha, rfl, by decide, by decide⟩
  simp only [List.mem_cons, Prod.mk.injEq, List.not_mem_nil, or_false] at ho
  rcases ho with ⟨rfl, rfl⟩ | ⟨rfl, rfl⟩ | ⟨rfl, rfl⟩ | ⟨rfl, rfl⟩
  · exact ⟨_, resolve_zpX hr, rfl, fun _ => ⟨rfl, zpIndexed_toNat ..⟩, by simp⟩
  · exact ⟨_, resolve_zpY hr, rfl, fun _ => ⟨rfl, zpIndexed_toNat ..⟩, by simp⟩
  · exact ⟨_, resolve_absX hr, rfl, by simp, fun _ => ⟨indexed_toNat .., resolvedIndexed_crossed_iff ..⟩⟩
  · exact ⟨_, resolve_absY hr, rfl, by simp, fun _ => ⟨indexed_toNat .., resolvedIndexed_crossed_iff ..⟩⟩

/-! ## What an instruction leaves in the address latch -/

variable {s t : State}

theorem memWrite8_addrLatch (a : BusAddr) (v : Byte) (s : State) : (memWrite8 a v s).addrLatch = s.addrLatch :=
  (memWrite8_accessed a v s).latch

theorem push8_addrLatch (b : Byte) (s : State) : (push8 b s).addrLatch = s.addrLatch :=
  memWrite8_addrLatch _ b (s.setSp (s.sp - 1))

theorem pull8q_addrLatch (s : State) : (pull8q s).2.addrLatch = s.addrLatch := (memRead8_effect _ s).latch

theorem push16_addrLatch {w : Word} (h : push16 w s = .ok t) : t.addrLatch = s.addrLatch :=
  (memWrite16_accessed h).latch

theorem pull16_addrLatch {r : Word × State} (h : pull16 s = .ok r) : r.2.addrLatch = s.addrLatch := by
  obtain ⟨a, ha, hr⟩ := Result.bind_ok.1 h
  cases hr
  exact (memRead16_accessed ha).1.latch

theorem takeBreak_addrLatch {ret : Word} (h : takeBreak ret s = .ok t) : t.addrLatch = s.addrLatch := by
  simp only [takeBreak, Result.bind_ok, Result.pure_ok] at h
  obtain ⟨st, -, s1, h1, v, hv, rfl⟩ := h
  exact ((memRead16_accessed hv).1.latch.trans (push8_addrLatch st s1)).trans (push16_addrLatch h1)

theorem returnFromBreak_addrLatch (h : returnFromBreak s = .ok t) : t.addrLatch = s.addrLatch := by
  simp only [returnFromBreak, Result.bind_ok, Result.pure_ok] at h
  obtain ⟨w, hw, rfl⟩ := h
  exact (pull16_addrLatch hw).trans (memRead8_effect _ s).latch

/-- A byte's change leaves the latch. -/
theorem modifier_addrLatch {mn : Mnemonic} {m : Byte} {r : Byte × State} (h : modifier mn m s = .ok r) :
    r.2.addrLatch = s.addrLatch := by
  rcases modifier_ok h with e | ⟨c, e⟩ <;> rw [e]
  rfl

/-- What `addr_latch` holds after an instruction: what it held before where there is no operand, else the value the
operand's resolver returned (R119). -/
theorem exec_addrLatch {i : Instr} (h : exec i s = .next t) :
    (i.operand = none ∧ t.addrLatch = s.addrLatch) ∨
      ∃ o v, i.operand = some o ∧ resolve o s = .ok v ∧ t.addrLatch = v.value := by
  cases exec_completed h with
  | load r o v _ ho hv ht | decimal o v _ ho hv _ _ ht | arith g o v _ ho hv _ _ _ _ ht | logic g o v _ ho hv _ ht
  | bit o v _ ho hv _ ht | compare r o v _ ho hv _ ht =>
    refine .inr ⟨o, v, ho, hv, ?_⟩
    subst ht
    simp [decimalDraw, State.setArith, State.setBitTest, State.setCompare, operand_addrLatch hv]
  | store r o v _ ho hv _ ht =>
    refine .inr ⟨o, v, ho, hv, ?_⟩
    subst ht
    split <;> simp [memWrite8_addrLatch, (resolve_effect hv).latch]
  | modifyMem o v r _ ho hv hm ht =>
    refine .inr ⟨o, v, ho, hv, ?_⟩
    subst ht
    simp [memWrite8_addrLatch, modifier_addrLatch hm, (memRead8_effect _ _).latch, (resolve_effect hv).latch]
  | jmp o v _ ho hv ht => exact .inr ⟨o, v, ho, hv, ht ▸ (resolve_effect hv).latch⟩
  | jsr o v u _ ho hv hp ht => exact .inr ⟨o, v, ho, hv, ht ▸ (push16_addrLatch hp).trans (resolve_effect hv).latch⟩
  | branch g on o v _ ho hv _ ht =>
    refine .inr ⟨o, v, ho, hv, ?_⟩
    rcases ht with rfl | rfl | rfl <;> exact (resolve_effect hv).latch
  | modifyAcc r _ ho _ hm ht => exact .inl ⟨ho, by subst ht; simp [modifier_addrLatch hm]⟩
  | pha _ ho _ ht | php st _ ho _ ht => exact .inl ⟨ho, ht ▸ push8_addrLatch _ s⟩
  | pla _ ho ht | plp _ ho ht => exact .inl ⟨ho, by subst ht; simp [pull8q_addrLatch]⟩
  | rts w _ ho hw ht => exact .inl ⟨ho, ht ▸ pull16_addrLatch hw⟩
  | brk u _ ho hu ht => exact .inl ⟨ho, by subst ht; simp [takeBreak_addrLatch hu]⟩
  | rti u _ ho hu ht => exact .inl ⟨ho, by subst ht; simp [returnFromBreak_addrLatch hu]⟩
  | transfer _ _ _ ho _ ht | tsx _ ho ht | txs _ ho _ ht | bump _ _ _ ho _ ht | flag _ _ _ ho ht | nop _ ho ht =>
    exact .inl ⟨ho, by subst ht; simp⟩

/-- Settles O22, from `exec_addrLatch`: an instruction has an operand or it has none. -/
theorem addressLatchHoldsTheResolvedValue : Obligations.AddressLatchHoldsTheResolvedValue := by
  intro i s t h
  rcases exec_addrLatch h with ⟨hn, hl⟩ | ⟨o, v, ho, hv, hl⟩
  · exact ⟨fun _ => hl, fun o ho => by simp [hn] at ho⟩
  · refine ⟨fun hn => by simp [hn] at ho, fun o' ho' => ?_⟩
    obtain rfl : o = o' := Option.some.inj (ho.symm.trans ho')
    exact ⟨v, hv, hl⟩

end Sys2Proof.Machine
end

section
/-! A tick of the CPU: what the fetch reads and leaves, the instruction it runs, an unknown opcode's no-op or fault, and
a Busy tick (40_core_cycle.md R140 to R147; 30_encoding.md R100 to R104). -/

namespace Sys2Proof.Machine

variable {s t u x : State} {i : Instr} {opc : Byte} {n m : Nat} {l : List Record}

/-! ## The Busy tick -/

theorem step_of_pending (h : 0 < s.pending) : step s = .next (tickTail (busyTick s)) := by
  simp [step, cpuClock, Nat.ne_of_gt h]

/-- Settles O7: the CPU's part counts down, and the part of the tick after it changes the bus alone. -/
theorem busyTickOnlyCountsDown : Obligations.BusyTickOnlyCountsDown := by
  intro s h
  obtain ⟨hcore, hm, ho, hseq, hlog, hst, -⟩ := tickTail_effect (busyTick s)
  exact ⟨_, step_of_pending h, hcore, keepsMemory_of_storage hm hst [], hst, hm, ho, hseq, hlog⟩

/-! ## What a fetch leaves -/

/-- A fetch of `n` bytes, the first of them `opc`, has left `u`: PC is past the bytes, the opcode latched, `l` the
records since the bus was reset, and the rest of the core and every byte of RAM and ROM are as they were in `s`. -/
structure Fetches (s u : State) (opc : Byte) (n : Nat) (l : List Record) : Prop where
  core : u = { s with pc := s.pc + BitVec.ofNat 16 n, opcode := some opc, bus := u.bus, draws := u.draws }
  storage : u.bus.storagePart = s.bus.storagePart
  map : u.bus.map = s.bus.map
  order : u.bus.order = s.bus.order
  log : u.bus.log = l
  seq : u.bus.seq = l.length

theorem opcodeFetched_fetches (s : State) : Fetches s (opcodeFetched s) (fetch8 (busReset s)).1 1
    [⟨.read, pcAddr s, (fetch8 (busReset s)).1.setWidth 16, 0⟩] where
  core := by
    have ha := memRead8_accessed (pcAddr s) (busReset s)
    exact congrArg (fun x : State => (x.setPc (s.pc + 1)).setOpcode (fetch8 (busReset s)).1)
      (ha.core.eq_of_latch ha.latch)
  storage := (opcodeFetched_effect s).2.1
  map := (opcodeFetched_effect s).1.machine.map
  order := (opcodeFetched_effect s).1.machine.order
  log := opcodeFetched_log s
  seq := (memRead8_accessed (pcAddr s) (busReset s)).seq

theorem Fetches.pc (h : Fetches s t opc n l) : t.pc = s.pc + BitVec.ofNat 16 n := by rw [h.core]

/-- One more read at PC, of `k` bytes, adds its record and moves PC past them. -/
theorem Fetches.read (h : Fetches s t opc n l) {w : Word} (ha : Accessed .read (pcAddr t) w t x)
    (hs : x.bus.storagePart = t.bus.storagePart) (k : Nat) :
    Fetches s (x.setPc (t.pc + BitVec.ofNat 16 k)) opc (n + k)
      (l ++ [⟨.read, (s.pc + BitVec.ofNat 16 n).setWidth 17, w, l.length⟩]) where
  core := by
    rw [ha.core.eq_of_latch ha.latch, h.pc, BitVec.add_assoc, ← BitVec.ofNat_add, h.core]
    rfl
  storage := hs.trans h.storage
  map := ha.map.trans h.map
  order := ha.order.trans h.order
  log := by rw [State.setPc_bus, ha.log, h.log, h.seq, pcAddr, h.pc]
  seq := by simp [ha.seq, h.seq]

theorem Fetches.fetch8 (h : Fetches s t opc n l) : Fetches s (fetch8 t).2 opc (n + 1)
    (l ++ [⟨.read, (s.pc + BitVec.ofNat 16 n).setWidth 17, (fetch8 t).1.setWidth 16, l.length⟩]) :=
  h.read (memRead8_accessed _ t) (memRead8_storage _ t) 1

theorem Fetches.fetch16 (h : Fetches s t opc n l) {r : Word × State} (hr : fetch16 t = .ok r) :
    Fetches s r.2 opc (n + 2) (l ++ [⟨.read, (s.pc + BitVec.ofNat 16 n).setWidth 17, r.1, l.length⟩]) := by
  simp only [Machine.fetch16, Result.bind_ok, Result.pure_ok] at hr
  obtain ⟨a, ha, rfl⟩ := hr
  exact h.read (memRead16_accessed ha).1 (memRead16_accessed ha).2 2

/-! ## What a fetch finds -/

theorem fetchInstr_of_descriptor {row : Row} (h : descriptor s.cfg (fetch8 (busReset s)).1 = some row) :
    fetchInstr s = fetchOperand row.build (opcodeFetched s) := by
  simp only [fetchInstr, h]
  rfl

theorem fetchInstr_of_unknown (h : descriptor s.cfg (fetch8 (busReset s)).1 = none) :
    fetchInstr s = .ok (.unknown (fetch8 (busReset s)).1 (opcodeFetched s)) := by
  simp only [fetchInstr, h]
  rfl

theorem fetchInstr_instr (h : fetchInstr s = .ok (.instr i u)) :
    ∃ row, rowOf? (fetch8 (busReset s)).1 = some row ∧
      fetchOperand row.build (opcodeFetched s) = .ok (.instr i u) := by
  cases hd : descriptor s.cfg (fetch8 (busReset s)).1 with
  | none => rw [fetchInstr_of_unknown hd] at h; cases h
  | some row => exact ⟨row, rowOf?_of_descriptor hd, (fetchInstr_of_descriptor hd).symm.trans h⟩

theorem opcode_of_encode {bytes : List Byte} (h : encode i = opc :: bytes) : i.opcode = opc := (List.cons.inj h).1

/-- The instruction fetched is the one whose encoding was read, with one record for the opcode and one for the operand
(30_encoding.md R103, R104). -/
theorem fetchInstr_fetches (h : fetchInstr s = .ok (.instr i u)) :
    ∃ l, Fetches s u i.opcode (encode i).length (⟨.read, pcAddr s, i.opcode.setWidth 16, 0⟩ :: l) ∧
      ((encode i = [i.opcode] ∧ l = []) ∨
        (∃ b, encode i = [i.opcode, b] ∧ l = [⟨.read, (s.pc + 1).setWidth 17, b.setWidth 16, 1⟩]) ∨
        ∃ w, encode i = [i.opcode, lowByte w, highByte w] ∧ l = [⟨.read, (s.pc + 1).setWidth 17, w, 1⟩]) := by
  obtain ⟨row, hrow, hf⟩ := fetchInstr_instr h
  have hopc := opcodeFetched_fetches s
  obtain ⟨he, hro⟩ := rowOf?_some hrow
  rw [← hro] at hopc
  unfold Row.Encodes at he
  cases hb : row.build with
  | none j =>
    rw [hb] at hf he
    cases hf
    rw [opcode_of_encode he.1, he.1]
    exact ⟨[], hopc, .inl ⟨rfl, rfl⟩⟩
  | byte f =>
    rw [hb] at hf he
    cases hf
    rw [opcode_of_encode (he.1 _), he.1]
    exact ⟨_, hopc.fetch8, .inr (.inl ⟨_, rfl, rfl⟩)⟩
  | word f =>
    rw [hb] at hf he
    simp only [fetchOperand, Result.bind_ok, Result.pure_ok] at hf
    obtain ⟨r, hr, heq⟩ := hf
    cases heq
    rw [opcode_of_encode (he.1 _), he.1]
    exact ⟨_, hopc.fetch16 hr, .inr (.inr ⟨_, rfl, rfl⟩)⟩

/-! ## The bytes at PC, read off the state -/

/-- The bytes at PC are the opcode with no operand, with one byte or with one word after it. -/
theorem codeAtPc_some {bytes : List Byte} {records : List Record} (h : s.codeAtPc = some (bytes, records)) :
    ∃ opc rest r, bytes = opc :: rest ∧ s.peek (pcAddr s) = some opc ∧ r = ⟨.read, pcAddr s, opc.setWidth 16, 0⟩ ∧
      ((rest = [] ∧ records = [r]) ∨
        (∃ b, s.peek ((s.pc + 1).setWidth 17) = some b ∧ rest = [b] ∧
          records = [r, ⟨.read, (s.pc + 1).setWidth 17, b.setWidth 16, 1⟩]) ∨
        ∃ w, s.peek16 ((s.pc + 1).setWidth 17) = some w ∧ rest = [lowByte w, highByte w] ∧
          records = [r, ⟨.read, (s.pc + 1).setWidth 17, w, 1⟩]) := by
  unfold State.codeAtPc at h
  cases hp : s.peek (pcAddr s) with
  | none => rw [hp] at h; cases h
  | some opc =>
    simp only [hp] at h
    split at h
    · cases h
      exact ⟨opc, _, _, rfl, rfl, rfl, .inl ⟨rfl, rfl⟩⟩
    · split at h
      · obtain ⟨b, hb, he⟩ := Option.map_eq_some_iff.1 h
        cases he
        exact ⟨opc, _, _, rfl, rfl, rfl, .inr (.inl ⟨b, hb, rfl, rfl⟩)⟩
      · obtain ⟨w, hw, he⟩ := Option.map_eq_some_iff.1 h
        cases he
        exact ⟨opc, _, _, rfl, rfl, rfl, .inr (.inr ⟨w, hw, rfl, rfl⟩)⟩

/-- A read of `w` at the next address, with PC moved past its `k` bytes, continues a fetch the state shows. -/
theorem afterFetch_read (s : State) (opc : Byte) (n k : Nat) (l : List Record) (a : BusAddr) (w : Word) :
    ((s.afterFetch opc n l).record .read a w).setPc ((s.afterFetch opc n l).pc + BitVec.ofNat 16 k) =
      s.afterFetch opc (n + k) (l ++ [⟨.read, a, w, l.length⟩]) := by
  simp [State.afterFetch, State.record, State.setBus, State.setPc, Bus.append, BitVec.add_assoc, BitVec.ofNat_add]

theorem fetch8_afterFetch {b : Byte} (h : s.peek ((s.pc + BitVec.ofNat 16 n).setWidth 17) = some b) :
    fetch8 (s.afterFetch opc n l) =
      (b, s.afterFetch opc (n + 1) (l ++ [⟨.read, (s.pc + BitVec.ofNat 16 n).setWidth 17, b.setWidth 16, l.length⟩])) := by
  have hr : memRead8 (pcAddr (s.afterFetch opc n l)) (s.afterFetch opc n l) = _ := memRead8_of_peek h
  rw [fetch8, hr]
  exact congrArg (Prod.mk b) (afterFetch_read s opc n 1 l _ _)

theorem fetch16_afterFetch {w : Word} (h : s.peek16 ((s.pc + BitVec.ofNat 16 n).setWidth 17) = some w) :
    fetch16 (s.afterFetch opc n l) =
      .ok (w, s.afterFetch opc (n + 2) (l ++ [⟨.read, (s.pc + BitVec.ofNat 16 n).setWidth 17, w, l.length⟩])) := by
  have hr : memRead16 (pcAddr (s.afterFetch opc n l)) (s.afterFetch opc n l) = _ := memRead16_of_peek16 h
  rw [fetch16, hr]
  exact congrArg (fun t => Except.ok (w, t)) (afterFetch_read s opc n 2 l _ _)

theorem opcodeFetched_of_peek (h : s.peek (pcAddr s) = some opc) : (fetch8 (busReset s)).1 = opc ∧
    opcodeFetched s = s.afterFetch opc 1 [⟨.read, pcAddr s, opc.setWidth 16, 0⟩] := by
  have hr : memRead8 (pcAddr (busReset s)) (busReset s) = _ := memRead8_of_peek h
  rw [opcodeFetched, fetch8, hr]
  exact ⟨rfl, rfl⟩

theorem descriptor_of_supported {cfg : Config} (h : cfg.removedOpcodes.contains opc = false) :
    descriptor cfg opc = rowOf? opc := by
  simp only [descriptor, h]
  rfl

/-- Where the state shows the bytes at PC, the fetch finds the instruction they decode to. -/
theorem fetchInstr_of_codeAtPc {bytes : List Byte} {records : List Record} (h : s.codeAtPc = some (bytes, records))
    (hd : decode bytes = .ok (i, [])) (hr : s.cfg.removedOpcodes.contains i.opcode = false) :
    fetchInstr s = .ok (.instr i (s.afterFetch i.opcode bytes.length records)) := by
  obtain ⟨opc, rest, r, rfl, hp, rfl, hcase⟩ := codeAtPc_some h
  obtain ⟨hopc, hfetched⟩ := opcodeFetched_of_peek hp
  obtain rfl := opcode_of_decode hd
  obtain ⟨row, hrow, -⟩ := rowOf?_opcode i
  rw [decode_of_rowOf? hrow] at hd
  rw [fetchInstr_of_descriptor (by rw [hopc, descriptor_of_supported hr, hrow]), hfetched]
  generalize row.build = build at hd ⊢
  -- a build that takes another number of operand bytes does not read them to the end
  rcases hcase with ⟨rfl, rfl⟩ | ⟨b, hb, rfl, rfl⟩ | ⟨w, hw, rfl, rfl⟩
  · cases build <;> cases hd
    rfl
  · cases build <;> cases hd
    rw [fetchOperand, fetch8_afterFetch hb]
    rfl
  · cases build <;> cases hd
    rw [fetchOperand, fetch16_afterFetch hw, joinLE_bytes]
    rfl

/-- A Fetch tick that finds an instruction runs it, then the part of the tick after the CPU. -/
theorem step_of_fetchInstr (hp : s.pending = 0) (h : fetchInstr s = .ok (.instr i u)) :
    step s = thenTickTail (exec i u) := by
  have hc : cpuClock s = exec i u := by simp [cpuClock, hp, h]
  rw [step, hc]
  cases exec i u <;> rfl

/-- Settles O6: bytes the state shows are fetched as they decode; whatever the bytes, `fetchInstr_fetches` says what the
fetch has left. -/
theorem stepRunsDecodedInstruction : Obligations.StepRunsDecodedInstruction := by
  refine ⟨fun s bytes records i hp hcode hd hr => step_of_fetchInstr hp (fetchInstr_of_codeAtPc hcode hd hr),
    fun s i u hp h => ?_⟩
  obtain ⟨l, hu, hcase⟩ := fetchInstr_fetches h
  refine ⟨step_of_fetchInstr hp h, hu.core, hu.storage, hu.map, hu.order, ?_⟩
  rw [hu.log]
  rcases hcase with ⟨he, rfl⟩ | ⟨b, he, rfl⟩ | ⟨w, he, rfl⟩
  · exact .inl ⟨he, rfl⟩
  · exact .inr (.inl ⟨b, he, rfl⟩)
  · exact .inr (.inr ⟨w, he, rfl⟩)

/-! ## An unknown opcode -/

section
variable (hp : s.pending = 0) (hd : descriptor s.cfg (fetch8 (busReset s)).1 = none)
include hp hd

theorem cpuClock_of_unknown :
    cpuClock s = outcome (unknownOpcode (fetch8 (busReset s)).1 (opcodeFetched s)) := by
  simp [cpuClock, hp, fetchInstr_of_unknown hd]

theorem cpuClock_unknown_nop (hn : s.cfg.unknownOpcode = .nop) :
    cpuClock s = .next { opcodeFetched s with cyclesTotal := some 0, unknownSeen := true } := by
  simp [cpuClock_of_unknown hp hd, unknownOpcode, hn, outcome]

theorem step_unknown_fault (hf : s.cfg.unknownOpcode = .fault) :
    step s = .fault (.unknownOpcode (fetch8 (busReset s)).1 s.pc { opcodeFetched s with unknownSeen := true }) := by
  have hpc : (opcodeFetched s).pc - 1#16 = s.pc := by simp [(opcodeFetched_fetches s).pc]
  simp [step, cpuClock_of_unknown hp hd, unknownOpcode, hf, outcome, hpc]

end

/-- A CPU clock that made one access leaves its record to the bus latch. -/
theorem tickTail_of_record {k : AccessKind} {a : BusAddr} {w : Word} (h : u.bus.log = [⟨k, a, w, n⟩]) :
    (tickTail u).bus.lastAddress = a ∧ (tickTail u).bus.lastData = w ∧ (tickTail u).bus.log = [] := by
  obtain ⟨-, -, -, -, hlog, -, -, -, hla, hld⟩ := tickTail_effect u
  rw [busClock_of_append (l := []) h] at hla hld
  exact ⟨hla, hld, by simp [hlog, h]⟩

theorem step_of_cpuClock (h : cpuClock s = .next u) : step s = .next (tickTail u) := by simp [step, h]

/-- Settles O8: the fetch has read one byte, to which the policy adds its marks or its fault. -/
theorem unknownOpcodeTick : Obligations.UnknownOpcodeTick := by
  rintro s _ hp rfl hd
  have hfetch := opcodeFetched_fetches s
  refine ⟨fun v hv => (opcodeFetched_of_peek hv).1, fun hn => ?nop, fun hf => ?fault⟩
  case nop =>
    have hc := cpuClock_unknown_nop hp hd hn
    refine ⟨⟨_, hc, ?_, keepsMemory_of_storage hfetch.map hfetch.storage [], hfetch.storage, hfetch.log⟩,
      _, step_of_cpuClock hc, ?_, ?_, tickTail_of_record hfetch.log⟩
    · exact congrArg (fun x : State => { x with cyclesTotal := some 0, unknownSeen := true }) hfetch.core
    · exact (tickTail_pending _).trans ((opcodeFetched_pending s).trans hp)
    · exact (tickTail_effect _).1.pc.trans hfetch.pc
  case fault =>
    exact ⟨_, step_unknown_fault hp hd hf,
      congrArg (fun x : State => { x with unknownSeen := true }) hfetch.core, hfetch.log⟩

/-! ## The mark of an unknown opcode -/

@[simp] theorem opcodeFetched_unknownSeen (s : State) : (opcodeFetched s).unknownSeen = s.unknownSeen := by
  rw [(opcodeFetched_fetches s).core]

@[simp] theorem tickTail_unknownSeen (s : State) : (tickTail s).unknownSeen = s.unknownSeen :=
  (tickTail_effect s).1.unknownSeen

/-- Settles O15: a Busy tick and an instruction keep the mark, and an unknown opcode sets it. -/
theorem unknownSeenIsSticky : Obligations.UnknownSeenIsSticky := by
  intro s t h
  obtain ⟨u, hu, rfl⟩ := step_next h
  rw [tickTail_unknownSeen]
  rcases cpuClock_next hu with ⟨hp, rfl⟩ | ⟨hp, hd, -, rfl⟩ | ⟨-, row, hd, i, v, -, hv, he⟩
  · simp [busyTick, Nat.ne_of_gt hp]
  · simp [hp, hd]
  · rw [(exec_evolves he).machine.unknownSeen, hv.machine.unknownSeen, opcodeFetched_unknownSeen]
    simp [hd]

end Sys2Proof.Machine
end

section
/-! Loads and stores: the operand to a register with its N and Z, and a register to the effective address (41_load_store.md
R170 to R176). -/

namespace Sys2Proof.Machine

variable {s t : State} {o : Operand} {v : Resolved}

theorem setNZ_nzOf (s : State) (m : Byte) : (s.setNZ m).nzOf m := by simp [State.nzOf, State.flagIs]

theorem State.nzOf.retire {m : Byte} (h : s.nzOf m) (c : Nat) : (s.retire c).nzOf m := h

theorem retire_endsWithCost (s : State) (c : Nat) : endsWithCost (s.retire c) c := ⟨rfl, rfl⟩

theorem State.peek_of_bus (h : t.bus = s.bus) (a : BusAddr) : t.peek a = s.peek a :=
  State.peek_congr (by rw [h]) (by rw [h]) a

/-- The end of an operation that puts a result byte in a register with its N and Z. -/
theorem result_holds (s : State) (r : Reg) (m : Byte) (c : Nat) : (((s.setReg r m).setNZ m).retire c).holds r m := by
  simp [State.holds]

/-- Settles O34: a load is its operand's read, which keeps the frame, then the byte to the register with N and Z. -/
theorem loadResults : Obligations.LoadResults := by
  refine ⟨by decide, by decide, by decide, fun i r o s hm ho hready => ?_⟩
  obtain ⟨v, hv⟩ := resolve_of_ready hready
  have hexec : exec i s = .next _ := (exec_load hm ho s).trans (congrArg outcome (load_eq r i.opcode hv))
  have hframe : Frame [r] [.z, .n] [] s (readOperand o v).2 := (Frame.refl _ _ _ s).operand hv
  refine ⟨v, _, hv, hexec, result_holds _ r _ _, (setNZ_nzOf _ _).retire _, retire_endsWithCost _ _, ?_, ?_, ?_, ?_,
    ((hframe.setReg (by simp) _).setNZ (by simp) (by simp) _).retire _⟩
  · simp [operand_sp hv]
  · simp [operand_pc hv]
  · simp [operand_addrLatch hv]
  · simp

/-- N and Z under P_STORE_SETS_NZ, and the cost, after a store's byte write (R173). -/
def afterStore (cfg : Config) (b : Byte) (c : Nat) (s : State) : State :=
  (if cfg.storeSetsNZ then s.setNZ b else s).retire c

section
variable (cfg : Config) (b : Byte) (c : Nat) (s : State)

theorem afterStore_bus : (afterStore cfg b c s).bus = s.bus := by unfold afterStore; split <;> rfl

theorem afterStore_sp : (afterStore cfg b c s).sp = s.sp := by unfold afterStore; split <;> rfl

theorem afterStore_pc : (afterStore cfg b c s).pc = s.pc := by unfold afterStore; split <;> rfl

theorem afterStore_addrLatch : (afterStore cfg b c s).addrLatch = s.addrLatch := by unfold afterStore; split <;> rfl

theorem afterStore_nzOf (h : cfg.storeSetsNZ = true) : (afterStore cfg b c s).nzOf b := by
  rw [afterStore, if_pos h]
  exact (setNZ_nzOf s b).retire c

theorem Frame.afterStore {rs : List Reg} {ms : List BusAddr} {s u : State} (hu : Frame rs [] ms s u) :
    Frame rs (if cfg.storeSetsNZ then [.z, .n] else []) ms s (afterStore cfg b c u) := by
  unfold Machine.afterStore
  split
  · exact ((hu.mono (List.Subset.refl _) (List.nil_subset _) (List.Subset.refl _)).setNZ (by simp) (by simp) b).retire c
  · exact hu.retire c

end

/-- A store that completes is its byte write, then what `afterStore` adds. -/
theorem exec_store_next {i : Instr} {r : Reg} (hm : (i.mnemonic, r) ∈ Mnemonic.stores) (ho : i.operand = some o)
    (hv : resolve o s = .ok v) (hr : s.regWritten r = true) :
    exec i s = .next (afterStore s.cfg (s.reg r) (baseCost s.cfg i.opcode) (memWrite8 v.value (s.reg r) v.state)) :=
  (exec_store hm ho s).trans (congrArg outcome (store_eq i.opcode hv hr))

/-- Settles O35: a store is the resolver's pointer read, the byte write, then N and Z under P_STORE_SETS_NZ. -/
theorem storeResults : Obligations.StoreResults := by
  refine ⟨by decide, by decide, by decide, rfl, fun i r o s hm ho hready hr => ?_⟩
  obtain ⟨v, hv⟩ := resolve_of_ready hready
  have hres := resolve_effect hv
  have hw := memWrite8_accessed v.value (s.reg r) v.state
  have hcore := hres.core.trans hw.core
  have hframe : Frame [] [] [v.value] s (memWrite8 v.value (s.reg r) v.state) :=
    ((Frame.refl _ _ _ s).resolve hv).memWrite8 (List.mem_singleton_self _) _
  have hbus := afterStore_bus s.cfg (s.reg r) (baseCost s.cfg i.opcode) (memWrite8 v.value (s.reg r) v.state)
  refine ⟨v, _, hv, exec_store_next hm ho hv hr, ?_, hbus, fun hwf => ?_, afterStore_nzOf _ _ _ _,
    retire_endsWithCost _ _, ?_, ?_, ?_, hframe.afterStore _ _ _⟩
  · unfold logsOne
    rw [hbus]
    exact hw.logsOne
  · rw [State.peek_of_bus hbus]
    exact stored_after hres.map hres.storage (hres.wf (Bus.wf_devs hwf)) _
  · rw [afterStore_sp, hcore.sp]
  · rw [afterStore_pc, hcore.pc]
  · rw [afterStore_addrLatch, hw.latch, hres.latch]

end Sys2Proof.Machine
end

section
/-! The stack's own operations: the bytes and shorts pushed and pulled, and what they leave (42_transfer_stack.md R180
to R184). -/

namespace Sys2Proof.Machine

variable {s t : State} {m : Byte}

/-! ## Bytes -/

theorem push8_accessed (b : Byte) (s : State) :
    Accessed .write (stackAddr s.cfg (s.sp - 1)) (b.setWidth 16) (s.setSp (s.sp - 1)) (push8 b s) :=
  memWrite8_accessed _ b _

@[simp] theorem push8_sp (b : Byte) (s : State) : (push8 b s).sp = s.sp - 1 := (push8_accessed b s).core.sp

@[simp] theorem push8_cfg (b : Byte) (s : State) : (push8 b s).cfg = s.cfg := (push8_accessed b s).core.cfg

theorem push8_logsOne (b : Byte) (s : State) :
    logsOne .write (stackAddr s.cfg (s.sp - 1)) (b.setWidth 16) s (push8 b s) := (push8_accessed b s).logsOne

theorem push8_bus (b : Byte) (s : State) : (push8 b s).bus = (memWrite8 (stackAddr s.cfg (s.sp - 1)) b s).bus :=
  memWrite8_bus _ b rfl

theorem push8_isRam (b : Byte) (s : State) (a : BusAddr) : (push8 b s).isRam a = s.isRam a :=
  State.isRam_fixed (push8_accessed b s).map (push8_accessed b s).fixed a

theorem push8_busWf (b : Byte) (hw : s.bus.wf = true) : (push8 b s).bus.wf = true := (push8_accessed b s).busWf hw

theorem push8_peek_same (b : Byte) (hw : s.bus.wf = true) :
    (push8 b s).peek (stackAddr s.cfg (s.sp - 1)) = storedAs s (stackAddr s.cfg (s.sp - 1)) b :=
  memWrite8_peek_same (s := s.setSp (s.sp - 1)) b (Bus.wf_devs hw)

theorem push8_peek_other (b : Byte) {q : Byte} (hq : q ≠ s.sp - 1) :
    (push8 b s).peek (stackAddr s.cfg q) = s.peek (stackAddr s.cfg q) :=
  memWrite8_peek_other b (s.setSp (s.sp - 1)) fun h => hq (stackAddr_inj h)

@[simp] theorem pull8q_sp (s : State) : (pull8q s).2.sp = s.sp - 1 := rfl

@[simp] theorem pull8q_cfg (s : State) : (pull8q s).2.cfg = s.cfg := (memRead8_effect _ s).core.cfg

theorem pull8q_logsOne (s : State) :
    logsOne .read (stackAddr s.cfg s.sp) ((pull8q s).1.setWidth 16) s (pull8q s).2 := (memRead8_accessed _ s).logsOne

theorem pull8q_peek (s : State) (a : BusAddr) : (pull8q s).2.peek a = s.peek a :=
  State.peek_congr (memRead8_effect _ s).map (memRead8_storage _ s) a

theorem pull8q_of_peek (h : s.peek (stackAddr s.cfg s.sp) = some m) : (pull8q s).1 = m := by
  rw [pull8q, memRead8_of_peek h]

/-- A pull that follows a push reads the byte the push wrote, where that is RAM (R182). -/
theorem pull8q_push8 (b : Byte) (hw : s.bus.wf = true) (hr : s.isRam (stackAddr s.cfg (s.sp - 1)) = true) :
    (pull8q (push8 b s)).1 = b := by
  refine pull8q_of_peek ?_
  rw [push8_cfg, push8_sp, push8_peek_same b hw, storedAs_of_isRam hr]

/-! ## Shorts -/

theorem push16_accessed {w : Word} (h : push16 w s = .ok t) :
    Accessed .write (stackAddr s.cfg (s.sp - 2)) w (s.setSp (s.sp - 2)) t :=
  memWrite16_accessed h

theorem push16_logsOne {w : Word} (h : push16 w s = .ok t) : logsOne .write (stackAddr s.cfg (s.sp - 2)) w s t :=
  (push16_accessed h).logsOne

theorem push16_storesShort {w : Word} (h : push16 w s = .ok t) (hw : s.bus.wf = true) :
    storesShort s t (stackAddr s.cfg (s.sp - 2)) w :=
  memWrite16_stores (s := s.setSp (s.sp - 2)) hw h

/-- What a short push does to the bus depends on the bus and the stack's place alone. -/
theorem push16_bus {w : Word} {s' t' : State} (ht : push16 w t = .ok t') (hs : push16 w s = .ok s')
    (hb : t.bus = s.bus) (hc : t.cfg = s.cfg) (hsp : t.sp = s.sp) : t'.bus = s'.bus := by
  rw [push16, hc, hsp] at ht
  exact memWrite16_bus (s := s.setSp (s.sp - 2)) (t := t.setSp (s.sp - 2)) hb ht hs

theorem pull16_of_read {r : Word × State} (h : memRead16 (stackAddr s.cfg s.sp) s = .ok r) :
    pull16 s = .ok (r.1, r.2.setSp (s.sp + 2)) := by
  simp only [pull16, h]
  rfl

/-- A short whose two bytes went to one RAM is there as a short (20_memory.md R75). -/
theorem peek16_of_storesShort {a : BusAddr} {w : Word} (h : storesShort s t a w) (hw : t.bus.wf = true)
    (hm : t.bus.map = s.bus.map) (hf : t.bus.fixedPart = s.bus.fixedPart) (ho : s.sameOwner a (a + 1))
    (hr : s.isRam a = true) (hr' : s.isRam (a + 1) = true) : t.peek16 a = some w := by
  have howner : t.sameOwner a (a + 1) := by
    unfold State.sameOwner
    rw [Bus.owner_congr hm, Bus.owner_congr hm]
    exact ho
  rw [peek16_of_peeks hw howner ((State.isRam_fixed hm hf a).trans hr) (h.1.trans (storedAs_of_isRam hr _))
    ((h.2 ho).trans (storedAs_of_isRam hr' _)), joinLE_bytes]

/-- Settles O39: a pull reads the byte at SP, which is the last one pushed, and goes on below it. -/
theorem pushPullAsymmetry : Obligations.PushPullAsymmetry := by
  refine fun s b1 b2 hw => ⟨fun m => pull8q_of_peek, pull8q_sp s, pull8q_logsOne s,
    fun hr => ⟨pull8q_push8 b1 hw hr, ?two⟩, fun hr => ⟨pull8q_push8 b2 (push8_busWf b1 hw) ?ram, ?four,
      fun m hm => pull8q_of_peek ?below⟩⟩
  case two =>
    rw [pull8q_sp, push8_sp, BitVec.sub_sub]
    rfl
  case ram =>
    rw [push8_isRam, push8_cfg, push8_sp, BitVec.sub_sub]
    exact hr
  case four =>
    simp only [pull8q_sp, push8_sp, BitVec.sub_sub]
    rfl
  case below =>
    have hfirst : (push8 b1 s).peek (stackAddr s.cfg (s.sp - 3)) = some m :=
      (push8_peek_other b1 (by bv_omega)).trans hm
    have hsecond : (push8 b2 (push8 b1 s)).peek (stackAddr (push8 b1 s).cfg (s.sp - 3)) = some m :=
      (push8_peek_other b2 (by rw [push8_sp]; bv_omega)).trans (by rwa [push8_cfg])
    rw [pull8q_peek, pull8q_cfg, pull8q_sp, push8_cfg, push8_sp, push8_sp, BitVec.sub_sub, BitVec.sub_sub]
    exact hsecond

end Sys2Proof.Machine
end

section
/-! Transfers, pushes and pulls: what each leaves (42_transfer_stack.md R185 to R194). -/

namespace Sys2Proof.Machine

variable {i : Instr} {s : State} {opc : Byte}

/-- An instruction ends with its cost; `hc` reads the cost column of 30_encoding.md R121. -/
theorem retire_endsWithFixedCost (s t : State) {c : Nat} (hc : (rowOf? opc).map Row.cost = some c) :
    endsWithFixedCost s (t.retire (baseCost s.cfg opc)) opc c := by
  obtain ⟨r, hr, rfl⟩ := Option.map_eq_some_iff.1 hc
  exact ⟨retire_endsWithCost _ _, fun h => baseCost_of_table h hr⟩

/-- An instruction that does no more than put a byte in a register with its N and Z. -/
theorem completes_with_result {r : Reg} {m : Byte} {c : Nat}
    (h : exec i s = .next (((s.setReg r m).setNZ m).retire (baseCost s.cfg opc)))
    (hc : (rowOf? opc).map Row.cost = some c) :
    ∃ t, exec i s = .next t ∧ t.holds r m ∧ t.nzOf m ∧ endsWithFixedCost s t opc c ∧ t.sp = s.sp ∧ t.pc = s.pc ∧
      t.addrLatch = s.addrLatch ∧ logsNone s t ∧ Frame [r] [.z, .n] [] s t := by
  refine ⟨_, h, result_holds s r m _, (setNZ_nzOf _ m).retire _, retire_endsWithFixedCost s _ hc, ?_, ?_, ?_, ?_,
    (((Frame.refl _ _ _ s).setReg (by simp) m).setNZ (by simp) (by simp) m).retire _⟩
  all_goals simp [logsNone]

theorem transfer_eq {src : Reg} (dst : Reg) (opc : Byte) (h : s.regWritten src = true) :
    transfer src dst opc s = .ok (((s.setReg dst (s.reg src)).setNZ (s.reg src)).retire (baseCost s.cfg opc)) := by
  simp only [transfer, readReg_of h]
  rfl

theorem exec_txs_next (h : s.regWritten .x = true) :
    exec .txs s = .next ((s.setSp s.x).retire (baseCost s.cfg 0x9A#8)) := by
  simp only [exec, execTxs, transferXToSp, readReg_of h]
  rfl

/-- Settles O36: each but TXS is a result in a register, TXS a write of SP alone. -/
theorem transferResults : Obligations.TransferResults := by
  refine ⟨fun i src dst opc hi => ?transfer, rfl, rfl, fun s => completes_with_result rfl rfl, fun s hr => ?txs⟩
  case transfer =>
    have next {s : State} (hr : s.regWritten src = true) := congrArg outcome (transfer_eq dst opc hr)
    simp only [List.mem_cons, Prod.mk.injEq, List.not_mem_nil, or_false] at hi
    rcases hi with ⟨rfl, rfl, rfl, rfl⟩ | ⟨rfl, rfl, rfl, rfl⟩ | ⟨rfl, rfl, rfl, rfl⟩ | ⟨rfl, rfl, rfl, rfl⟩ <;>
      exact ⟨rfl, fun s hr => completes_with_result (next hr) rfl⟩
  case txs =>
    exact ⟨_, exec_txs_next hr, rfl, retire_endsWithFixedCost s _ rfl, rfl, rfl, ⟨rfl, rfl⟩,
      ((Frame.refl _ _ _ s).setSp _).retire _⟩

/-- PHA and PHP push a byte once what they read is written (R191, R192). -/
theorem exec_push_next {b : Byte} (h : (i = .pha ∧ opc = 0x48#8 ∧ b = s.a ∧ s.regWritten .a = true) ∨
    (i = .php ∧ opc = 0x08#8 ∧ b = s.p ||| s.cfg.phpMask ∧ s.statusReadable)) :
    exec i s = .next ((push8 b s).retire (baseCost s.cfg opc)) := by
  rcases h with ⟨rfl, rfl, rfl, hr⟩ | ⟨rfl, rfl, rfl, hr⟩
  · simp only [exec, execPha, pushAcc, readReg_of hr]
    rfl
  · simp only [exec, execPhp, pushStatus, pushedStatus_of hr]
    rfl

/-- Settles O37: both are one `push8`. -/
theorem pushResults : Obligations.PushResults := by
  refine ⟨rfl, rfl, rfl, fun s => stackAddr_toNat s.cfg, fun i opc b s h => ?_⟩
  have hc : (rowOf? opc).map Row.cost = some 3 := by rcases h with ⟨-, rfl, -⟩ | ⟨-, rfl, -⟩ <;> rfl
  exact ⟨_, exec_push_next h, push8_sp b s, push8_logsOne b s, push8_bus b s, push8_peek_same b,
    retire_endsWithFixedCost s _ hc, push8_pc b s, push8_addrLatch b s,
    ((Frame.refl _ _ _ s).push8 (List.mem_singleton_self _) b).retire _⟩

/-- Settles O38: both are one `pull8q`, whose byte PLA puts in A and PLP in P. -/
theorem pullResults : Obligations.PullResults := by
  refine ⟨rfl, rfl, fun s => ?pla, fun s => ?plp⟩
  case pla =>
    refine ⟨(pull8q s).1, _, rfl, rfl, result_holds _ .a _ _, (setNZ_nzOf _ _).retire _, ?_,
      retire_endsWithFixedCost s _ rfl, ?_, ?_, pull8q_logsOne s, ?_,
      (((Frame.refl _ _ _ s).pull8q.setReg (by simp) _).setNZ (by simp) (by simp) _).retire _⟩
    · simp
    · simp [pull8q_pc]
    · simp [pull8q_addrLatch]
    · simp [pull8q]
  case plp =>
    exact ⟨(pull8q s).1, _, rfl, rfl, rfl, rfl, rfl, retire_endsWithFixedCost s _ rfl, pull8q_pc s, pull8q_addrLatch s,
      pull8q_logsOne s, rfl, ((Frame.refl _ _ _ s).pull8q.setP (fun f => by cases f <;> decide) _).retire _⟩

end Sys2Proof.Machine
end

section
/-! JSR and RTS: the return address as one short on the stack (42_transfer_stack.md R183, R184; 45_control.md R241,
R242). -/

namespace Sys2Proof.Machine

variable {s t : State}

/-- JSR is its short push, with the address latched, and then the jump. -/
theorem exec_jsr_iff {addr : Word} : exec (.jsr addr) s = .next t ↔
    ∃ u, push16 (s.pc - s.cfg.jsrRetBias) (s.setAddrLatch (addr.setWidth 17)) = .ok u ∧
      (u.setPc addr).retire (baseCost s.cfg 0x20#8) = t := by
  have htarget : (addr.setWidth 17).setWidth 16 = addr := by simp
  simp only [exec, execJsr, outcome_next, jumpSubroutine, resolve, Result.ok_bind, resolvedAt, State.setAddrLatch_pc,
    htarget, Result.bind_ok, Result.pure_ok]

/-- Settles O51: JSR pushes with the address latched, which changes the bus as the push from `s` does. -/
theorem jumpToSubroutine : Obligations.JumpToSubroutine := by
  refine ⟨by decide, rfl, fun addr s hfit => ?_⟩
  obtain ⟨u, hu⟩ := push16_of_fits (s.pc - s.cfg.jsrRetBias) hfit
  obtain ⟨v, hv⟩ := push16_of_fits (s := s.setAddrLatch (addr.setWidth 17)) (s.pc - s.cfg.jsrRetBias) hfit
  have e := push16_accessed hv
  have hbus : v.bus = u.bus := push16_bus hv hu rfl rfl rfl
  have hstored := push16_storesShort hv
  have hlog := push16_logsOne hv
  have hlatch : Frame [] [] [stackAddr s.cfg (s.sp - 2), stackAddr s.cfg (s.sp - 2) + 1] s
      (s.setAddrLatch (addr.setWidth 17)) := (Frame.refl _ _ _ s).resolve (o := .abs addr) rfl
  exact ⟨u, _, hu, exec_jsr_iff.2 ⟨v, hv, rfl⟩, hbus, rfl, e.core.sp, e.latch, hlog, hstored,
    retire_endsWithFixedCost s _ rfl, ((hlatch.push16 (by simp) (by simp) hv).setPc _).retire _⟩

theorem exec_rts_next {r : Word × State} (h : memRead16 (stackAddr s.cfg s.sp) s = .ok r) :
    exec .rts s = .next (((r.2.setSp (s.sp + 2)).setPc (r.1 + s.cfg.jsrRetBias)).retire (baseCost s.cfg 0x60#8)) := by
  simp only [exec, execRts, returnSubroutine, pull16_of_read h]
  rfl

/-- A JSR to RAM leaves its return address as a short at the new SP (R183, 20_memory.md R75). -/
theorem jsr_leaves_return_address {addr : Word} (hw : s.bus.wf = true)
    (hr : s.isRam (stackAddr s.cfg (s.sp - 2)) = true) (hr' : s.isRam (stackAddr s.cfg (s.sp - 2) + 1) = true)
    (ho : s.sameOwner (stackAddr s.cfg (s.sp - 2)) (stackAddr s.cfg (s.sp - 2) + 1))
    (h : exec (.jsr addr) s = .next t) :
    t.cfg = s.cfg ∧ t.sp = s.sp - 2 ∧
      t.peek16 (stackAddr s.cfg (s.sp - 2)) = some (s.pc - s.cfg.jsrRetBias) := by
  obtain ⟨u, hu, rfl⟩ := exec_jsr_iff.1 h
  have e := push16_accessed hu
  have hstored := push16_storesShort hu hw
  exact ⟨e.core.cfg, e.core.sp, (peek16_of_storesShort hstored (e.busWf hw) e.map e.fixed ho hr hr' :)⟩

/-- Settles O52: RTS is one short pull; after a JSR that short is the return address, whose bias it adds back. -/
theorem returnFromSubroutine : Obligations.ReturnFromSubroutine := by
  refine ⟨rfl, fun s hfit => ?_, fun addr s t t' hw hr hr' ho h hcfg hsp hpeek => ?_⟩
  · obtain ⟨r, hread⟩ := memRead16_of_fits hfit
    have e := (memRead16_accessed hread).1
    exact ⟨r.1, r.2, _, hread, exec_rts_next hread, rfl, rfl, retire_endsWithFixedCost s _ rfl, e.latch, e.logsOne, rfl,
      ((((Frame.refl _ _ _ s).memRead16 hread).setSp _).setPc _).retire _⟩
  · obtain ⟨hc, hs, hp⟩ := jsr_leaves_return_address hw hr hr' ho h
    rw [hc] at hcfg
    rw [hs] at hsp
    have hread := memRead16_of_peek16 (hpeek.trans hp)
    rw [← hsp, ← hcfg] at hread
    refine ⟨_, exec_rts_next hread, ?_, ?_⟩
    · rw [hcfg]
      exact BitVec.sub_add_cancel _ _
    · rw [hsp]
      exact BitVec.sub_add_cancel _ _

end Sys2Proof.Machine
end

section
/-! Arithmetic, logic and compares: what each leaves (43_arith_logic.md R200 to R209). -/

namespace Sys2Proof.Machine

variable {rs : List Reg} {fs : List Flag} {s t u : State} {i : Instr} {o : Operand} {v : Resolved}

/-! ## After the operand's read -/

/-- Two states that agree on everything but A, P, the written marks and the count of free values. -/
def sameOutsideAP (s t : State) : Prop := t = { s with a := t.a, p := t.p, written := t.written, draws := t.draws }

theorem sameOutsideAP.refl (s : State) : sameOutsideAP s s := rfl

section
variable (h : sameOutsideAP s t)
include h

theorem sameOutsideAP.bus : t.bus = s.bus := by rw [sameOutsideAP] at h; rw [h]

theorem sameOutsideAP.sp : t.sp = s.sp := by rw [sameOutsideAP] at h; rw [h]

theorem sameOutsideAP.pc : t.pc = s.pc := by rw [sameOutsideAP] at h; rw [h]

theorem sameOutsideAP.addrLatch : t.addrLatch = s.addrLatch := by rw [sameOutsideAP] at h; rw [h]

end

/-- The end of an operation that changes no more than A and P once its operand is read: the cost, what is as before, and
the frame. -/
theorem operand_end (hv : resolve o s = .ok v) (hu : sameOutsideAP (readOperand o v).2 u) (hf : Frame rs fs [] s u)
    (c : Nat) :
    endsWithCost (u.retire c) c ∧ (u.retire c).sp = s.sp ∧ (u.retire c).pc = s.pc ∧
      (u.retire c).addrLatch = v.value ∧ (u.retire c).bus = (readOperand o v).2.bus ∧
      Frame rs fs [] s (u.retire c) :=
  ⟨retire_endsWithCost u c, hu.sp.trans (operand_sp hv), hu.pc.trans (operand_pc hv),
    hu.addrLatch.trans (operand_addrLatch hv), hu.bus, hf.retire c⟩

theorem State.holds.retire {r : Reg} {m : Byte} (h : s.holds r m) (c : Nat) : (s.retire c).holds r m := h

theorem State.flagIs.retire {f : Flag} {b : Bool} (h : s.flagIs f b) (c : Nat) : (s.retire c).flagIs f b := h

/-! ## Arithmetic -/

section
variable (s : State) (out : ArithOut)

theorem setArith_holds : (s.setArith out).holds .a out.result := by simp [State.setArith, State.holds]

theorem setArith_nzOf : (s.setArith out).nzOf out.result := setNZ_nzOf _ _

theorem setArith_carry : (s.setArith out).flagIs .c out.carry := by simp [State.setArith, State.flagIs]

theorem setArith_overflow : (s.setArith out).flagIs .v out.overflow := by simp [State.setArith, State.flagIs]

theorem setArith_outside : sameOutsideAP s (s.setArith out) := rfl

end

theorem Frame.setArith {ms : List BusAddr} (h : Frame [.a] [.c, .z, .v, .n] ms s t) (out : ArithOut) :
    Frame [.a] [.c, .z, .v, .n] ms s (t.setArith out) :=
  (((h.setFlag (by simp) _).setFlag (by simp) _).setReg (by simp) _).setNZ (by simp) (by simp) _

theorem adcResult_toNat (a m : Byte) (c : Bool) :
    (adcResult a m c).result.toNat = (a.toNat + m.toNat + c.toNat) % 256 := BitVec.toNat_ofNat _ _

/-- The difference of SBC before its reduction (R202). -/
def sbcDifference (a m : Byte) (c : Bool) : Int := (a.toNat : Int) - m.toNat - (1 - c.toNat)

theorem sbcResult_toNat (a m : Byte) (c : Bool) :
    ((sbcResult a m c).result.toNat : Int) = sbcDifference a m c % 256 := by
  have h : (sbcResult a m c).result.toNat = (sbcDifference a m c % 256).toNat := BitVec.toNat_ofInt _
  rw [h]
  omega

/-- The difference and ADC's sum with the complement are 256 apart. -/
theorem sbcDifference_eq_complement_sum (a m : Byte) (c : Bool) :
    sbcDifference a m c = (a.toNat + (~~~m).toNat + c.toNat : Nat) - 256 := by
  rw [sbcDifference, BitVec.toNat_not]
  omega

theorem sbcResult_eq_adcResult (a m : Byte) (c : Bool) : sbcResult a m c = adcResult a (~~~m) c := by
  have hd := sbcDifference_eq_complement_sum a m c
  have hresult : (sbcResult a m c).result = (adcResult a (~~~m) c).result := by
    apply BitVec.eq_of_toNat_eq
    have := sbcResult_toNat a m c
    rw [adcResult_toNat]
    omega
  have hcarry : (sbcResult a m c).carry = (adcResult a (~~~m) c).carry :=
    decide_eq_decide.2 (show 0 ≤ sbcDifference a m c ↔ _ by omega)
  have hsigns : ~~~(a ^^^ ~~~m) = a ^^^ m := by
    ext k hk
    simp
  have hoverflow : (sbcResult a m c).overflow = (adcResult a (~~~m) c).overflow :=
    (congrArg (fun r => ((a ^^^ m) &&& (a ^^^ r)).getLsbD 7) hresult).trans
      (congrArg (fun x => (x &&& (a ^^^ (adcResult a (~~~m) c).result)).getLsbD 7) hsigns.symm)
  exact (ArithOut.mk.injEq ..).mpr ⟨hresult, hcarry, hoverflow⟩

/-- Settles O40: the sum is `adcResult`, which `setArith` writes on the state the operand's read left. -/
theorem addWithCarry : Obligations.AddWithCarry := by
  refine ⟨by decide, fun i o s hm ho hready hd hn ha hc => ?_⟩
  obtain ⟨v, hv⟩ := resolve_of_ready hready
  have hexec := (exec_adc hm ho s).trans (congrArg outcome (arith_binary_eq adcResult i.opcode hv hd hn ha hc))
  exact ⟨v, _, _, _, hv, rfl, hexec, adcResult_toNat .., (setArith_holds ..).retire _,
    (setArith_nzOf ..).retire _, (setArith_carry ..).retire _, (setArith_overflow ..).retire _,
    operand_end hv (setArith_outside ..) (((Frame.refl _ _ _ s).operand hv).setArith _) _⟩

/-- Settles O41: as ADC with `sbcResult`, whose three parts are those of the sum with the complement. -/
theorem subtractWithBorrow : Obligations.SubtractWithBorrow := by
  refine ⟨by decide, sbcResult_eq_adcResult, fun i o s hm ho hready hd hn ha hc => ?_⟩
  obtain ⟨v, hv⟩ := resolve_of_ready hready
  have hexec := (exec_sbc hm ho s).trans (congrArg outcome (arith_binary_eq sbcResult i.opcode hv hd hn ha hc))
  exact ⟨v, _, _, _, _, hv, rfl, hexec, rfl, sbcResult_toNat .., (setArith_holds ..).retire _,
    (setArith_nzOf ..).retire _, (setArith_carry ..).retire _, (setArith_overflow ..).retire _,
    operand_end hv (setArith_outside ..) (((Frame.refl _ _ _ s).operand hv).setArith _) _⟩

/-! ## Decimal draws: the indices are fresh -/

theorem storedByte_draws_le (dev : Device) (m : Memory) (a : Nat) (s : State) :
    s.draws ≤ (storedByte dev m a s).2.draws := by
  unfold storedByte
  split <;> simp

theorem deviceRead8_draws_le (d : Nat) (dev : Device) (a : BusAddr) (s : State) :
    s.draws ≤ (deviceRead8 d dev a s).2.draws := by
  unfold deviceRead8
  split
  · exact storedByte_draws_le ..
  · exact storedByte_draws_le ..
  · exact Nat.le_refl _

theorem deviceRead16_draws_le (d : Nat) (dev : Device) (a : BusAddr) (s : State) :
    s.draws ≤ (deviceRead16 d dev a s).2.draws := by
  unfold deviceRead16
  split
  · exact (storedByte_draws_le ..).trans (storedByte_draws_le ..)
  · exact (storedByte_draws_le ..).trans (storedByte_draws_le ..)
  · exact Nat.le_refl _

theorem memRead8_draws_le (a : BusAddr) (s : State) : s.draws ≤ (memRead8 a s).2.draws := by
  unfold memRead8
  split
  · exact Nat.le_refl _
  · exact deviceRead8_draws_le ..

theorem memRead16_draws_le {a : BusAddr} {r : Word × State} (h : memRead16 a s = .ok r) : s.draws ≤ r.2.draws := by
  unfold memRead16 at h
  split at h
  · cases h; exact Nat.le_refl _
  · split at h
    · cases h; exact deviceRead16_draws_le ..
    · cases h

theorem resolve_draws_le (hv : resolve o s = .ok v) : s.draws ≤ v.state.draws := by
  cases o <;> simp only [resolve, readPtr, Result.bind_ok, Result.pure_ok, Except.ok.injEq] at hv
  case indX => obtain ⟨_, _, r, hr, rfl⟩ := hv; exact memRead16_draws_le hr
  case indY => obtain ⟨r, hr, _, _, rfl⟩ := hv; exact memRead16_draws_le hr
  case ind => obtain ⟨r, hr, rfl⟩ := hv; exact memRead16_draws_le hr
  case zpX | zpY | absX | absY => obtain ⟨_, _, rfl⟩ := hv; exact Nat.le_refl _
  all_goals subst hv; exact Nat.le_refl _

theorem readOperand_draws_le (o : Operand) (v : Resolved) : v.state.draws ≤ (readOperand o v).2.draws := by
  cases o
  case imm => exact Nat.le_refl _
  all_goals exact memRead8_draws_le ..

theorem decimalDraw_outside (s : State) : sameOutsideAP s (decimalDraw s) := rfl

theorem Frame.decimalDraw {ms : List BusAddr} (h : Frame [.a] [.c, .z, .v, .n] ms s t) :
    Frame [.a] [.c, .z, .v, .n] ms s (decimalDraw t) :=
  (((((h.setReg (by simp) _).setFlag (by simp) _).setFlag (by simp) _).setFlag (by simp) _).setFlag (by simp)
    _).useDraws _

/-- ADC and SBC are one operation, with the sum or the difference (R200, R202). -/
theorem exec_arith (hm : i.mnemonic ∈ [.adc, .sbc]) (ho : i.operand = some o) (s : State) :
    ∃ f, exec i s = outcome (arith f i.opcode o s) := by
  simp only [List.mem_cons, List.not_mem_nil, or_false] at hm
  rcases hm with hm | hm
  · exact ⟨_, exec_adc hm ho s⟩
  · exact ⟨_, exec_sbc hm ho s⟩

/-- Settles O42: `decimalDraw` takes the next five indices after those the operand's read may have used. -/
theorem decimalAddAndSubtract : Obligations.DecimalAddAndSubtract := by
  intro i o s hm ho hready hd hn
  obtain ⟨v, hv⟩ := resolve_of_ready hready
  obtain ⟨f, hf⟩ := exec_arith hm ho s
  have hexec := hf.trans (congrArg outcome (arith_decimal_eq f i.opcode hv hd hn))
  have hfresh : s.draws ≤ (readOperand o v).2.draws := (resolve_draws_le hv).trans (readOperand_draws_le o v)
  refine ⟨v, _, (readOperand o v).2.draws, hv, hexec, ?a, ?c, ?z, ?v, ?n, Nat.le_succ _, hfresh,
    operand_end hv (decimalDraw_outside _) ((Frame.refl _ _ _ s).operand hv).decimalDraw _⟩
  case a => simp [decimalDraw, State.holds]
  all_goals simp [decimalDraw, State.flagIs]

/-! ## Logic -/

/-- What AND, ORA and EOR do to A and the operand. -/
def logicByte (mn : Mnemonic) : Byte → Byte → Byte :=
  if mn = .and then andByte
  else if mn = .ora then oraByte
  else eorByte

theorem exec_logic (hm : i.mnemonic ∈ [.and, .ora, .eor]) (ho : i.operand = some o) (s : State) :
    exec i s = outcome (logic (logicByte i.mnemonic) i.opcode o s) := by
  simp only [List.mem_cons, List.not_mem_nil, or_false] at hm
  rcases hm with hm | hm | hm
  · rw [exec_and hm ho, hm]; rfl
  · rw [exec_ora hm ho, hm]; rfl
  · rw [exec_eor hm ho, hm]; rfl

theorem setAcc_outside (s : State) (m : Byte) : sameOutsideAP s ((s.setReg .a m).setNZ m) := rfl

/-- Settles O43: the byte `logicByte` gives goes to A with its N and Z. -/
theorem logicResults : Obligations.LogicResults := by
  refine ⟨by decide, by decide, by decide, fun i o s hm ho hready ha => ?_⟩
  obtain ⟨v, hv⟩ := resolve_of_ready hready
  have hexec := (exec_logic hm ho s).trans (congrArg outcome (logic_eq (logicByte i.mnemonic) i.opcode hv ha))
  have hframe : Frame [.a] [.z, .n] [] s (readOperand o v).2 := (Frame.refl _ _ _ s).operand hv
  exact ⟨v, _, _, _, hv, rfl, hexec, fun h => by rw [h]; rfl, fun h => by rw [h]; rfl, fun h => by rw [h]; rfl,
    result_holds _ .a _ _, (setNZ_nzOf _ _).retire _,
    operand_end hv (setAcc_outside _ _) ((hframe.setReg (by simp) _).setNZ (by simp) (by simp) _) _⟩

/-! ## BIT -/

section
variable (s : State) (a m : Byte)

theorem setBitTest_z : (s.setBitTest a m).flagIs .z (a &&& m == 0#8) := by simp [State.setBitTest, State.flagIs]

theorem setBitTest_n : (s.setBitTest a m).flagIs .n (m.getLsbD 7) := by simp [State.setBitTest, State.flagIs]

theorem setBitTest_v : (s.setBitTest a m).flagIs .v (m.getLsbD 6) := by simp [State.setBitTest, State.flagIs]

theorem setBitTest_outside : sameOutsideAP s (s.setBitTest a m) := rfl

end

theorem Frame.setBitTest {ms : List BusAddr} (h : Frame rs [.z, .v, .n] ms s t) (a m : Byte) :
    Frame rs [.z, .v, .n] ms s (t.setBitTest a m) :=
  ((h.setFlag (by simp) _).setFlag (by simp) _).setFlag (by simp) _

/-- BIT has two modes, both direct (R206). -/
theorem operand_of_bit (hm : i.mnemonic = .bit) (ho : i.operand = some o) :
    (∃ zz, o = .zp zz) ∨ ∃ addr, o = .abs addr := by
  cases i <;> cases hm <;> cases ho
  · exact .inl ⟨_, rfl⟩
  · exact .inr ⟨_, rfl⟩

/-- The resolver of BIT latches an address, at which the operand is one byte read. -/
theorem resolve_of_bit (hm : i.mnemonic = .bit) (ho : i.operand = some o) (s : State) :
    ∃ a, resolve o s = .ok (resolvedAt a s) ∧ ∀ v, readOperand o v = memRead8 v.value v.state := by
  obtain ⟨zz, rfl⟩ | ⟨addr, rfl⟩ := operand_of_bit hm ho <;> exact ⟨_, rfl, fun _ => rfl⟩

/-- Settles O44: the latched address is read once, and `setBitTest` writes the flags of A and that byte. -/
theorem bitTestResults : Obligations.BitTestResults := by
  refine ⟨by decide, fun i o s hm ho ha => ?_⟩
  obtain ⟨a, hv, hread⟩ := resolve_of_bit hm ho s
  have hexec := (exec_bit hm ho s).trans (congrArg outcome (bitTest_eq i.opcode hv ha))
  have hlog : logsOne .read a ((readOperand o (resolvedAt a s)).1.setWidth 16) s
      (readOperand o (resolvedAt a s)).2 := by
    rw [hread]
    exact (memRead8_accessed a (s.setAddrLatch a)).logsOne
  obtain ⟨hcost, hsp, hpc, hlatch, hbus, hframe⟩ :=
    operand_end hv (setBitTest_outside _ s.a (readOperand o (resolvedAt a s)).1)
      (((Frame.refl [] _ [] s).operand hv).setBitTest _ _) (baseCost s.cfg i.opcode)
  refine ⟨_, _, _, hv, by rw [← hread], hexec, (setBitTest_z ..).retire _, (setBitTest_n ..).retire _,
    (setBitTest_v ..).retire _, hcost, hsp, hpc, hlatch, ?_, hbus.trans (by rw [hread]), hframe⟩
  unfold logsOne
  rw [hbus]
  exact hlog

/-! ## Compares -/

section
variable (s : State) (b m : Byte)

theorem setCompare_c : (s.setCompare b m).flagIs .c (decide (m.toNat ≤ b.toNat)) := by
  simp [State.setCompare, State.flagIs]

theorem setCompare_z : (s.setCompare b m).flagIs .z (b == m) := by simp [State.setCompare, State.flagIs]

theorem setCompare_n : (s.setCompare b m).flagIs .n ((b - m).getLsbD 7) := by simp [State.setCompare, State.flagIs]

theorem setCompare_outside : sameOutsideAP s (s.setCompare b m) := rfl

end

theorem Frame.setCompare {ms : List BusAddr} (h : Frame rs [.c, .z, .n] ms s t) (b m : Byte) :
    Frame rs [.c, .z, .n] ms s (t.setCompare b m) :=
  ((h.setFlag (by simp) _).setFlag (by simp) _).setFlag (by simp) _

/-- Bit 7 of a difference, over the naturals (R207). -/
theorem sub_getLsbD_seven (b m : Byte) : (b - m).getLsbD 7 = decide (128 ≤ (b.toNat + 256 - m.toNat) % 256) := by
  have h : (b - m).msb = decide (128 ≤ (b - m).toNat) := BitVec.msb_eq_decide _
  have hsub : (b - m).toNat = (b.toNat + 256 - m.toNat) % 256 := by
    rw [BitVec.toNat_sub]
    omega
  rw [← hsub, ← h, BitVec.msb_eq_getLsbD_last]

/-- CPX and CPY have no indexed mode, so no page test (R208, R209). -/
theorem not_crossed_of_compare_index (hm : i.mnemonic ∈ [.cpx, .cpy]) (ho : i.operand = some o)
    (hv : resolve o s = .ok v) : v.crossed = false := by
  cases i <;> simp [Instr.mnemonic] at hm <;> cases ho <;> cases hv <;> rfl

/-- Settles O45: `setCompare` writes the flags on the state the operand's read left. -/
theorem compareResults : Obligations.CompareResults := by
  refine ⟨by decide, by decide, by decide, fun i r o s hm ho hready hr => ?_⟩
  obtain ⟨v, hv⟩ := resolve_of_ready hready
  have hexec := (exec_compare hm ho s).trans (congrArg outcome (compareReg_eq i.opcode hv hr))
  obtain ⟨hcost, hsame⟩ := operand_end hv (setCompare_outside _ (s.reg r) (readOperand o v).1)
    (((Frame.refl [] _ [] s).operand hv).setCompare _ _) (readCost s.cfg i.opcode v.crossed)
  have table : ∀ p ∈ Mnemonic.compares, p.2 ≠ .a → p.1 ∈ [.cpx, .cpy] := by decide
  exact ⟨v, _, _, hv, rfl, hexec, (setCompare_c ..).retire _, (setCompare_z ..).retire _,
    (sub_getLsbD_seven _ _ ▸ setCompare_n ..).retire _, hcost,
    fun hx => not_crossed_of_compare_index (table _ hm hx) ho hv, hsame⟩

end Sys2Proof.Machine
end

section
/-! Increments and decrements, of memory and of X and Y (43_arith_logic.md R210 to R215). -/

namespace Sys2Proof.Machine

variable {s t u : State} {i : Instr} {o : Operand} {v : Resolved}

theorem incByte_toNat (m : Byte) : (incByte m).toNat = (m.toNat + 1) % 256 := BitVec.toNat_add m 1

theorem decByte_toNat (m : Byte) : (decByte m).toNat = (m.toNat + 255) % 256 := by
  rw [decByte, BitVec.toNat_sub, Nat.add_comm]
  rfl

/-! ## Memory -/

/-- The modes of a read-modify-write of memory read no pointer (R210, R211, 44_shift_rotate.md R230). -/
theorem resolve_of_modifyMem (hm : i.mnemonic ∈ [.inc, .dec, .asl, .lsr, .rol, .ror]) (ho : i.operand = some o)
    (hv : resolve o s = .ok v) : v.state = s.setAddrLatch v.value := by
  refine resolve_direct hv ?_
  cases i <;> simp [Instr.mnemonic] at hm <;> cases ho <;> exact ⟨by simp, by simp⟩

/-- A read-modify-write that completes is its read, the change of the byte, its write, then N and Z. -/
theorem exec_modifyMem_next {r : Byte} (hm : i.mnemonic ∈ [.inc, .dec, .asl, .lsr, .rol, .ror])
    (ho : i.operand = some o) (hv : resolve o s = .ok v)
    (hr : modifier i.mnemonic (memRead8 v.value v.state).1 (memRead8 v.value v.state).2 = .ok (r, u)) :
    exec i s = .next (((memWrite8 v.value r u).setNZ r).retire (baseCost s.cfg i.opcode)) :=
  (exec_modifyMem hm ho s).trans (congrArg outcome (modifyMem_eq i.opcode hv hr))

/-- INC and DEC change the byte and nothing else. -/
theorem modifier_of_step {mn : Mnemonic} (hm : mn ∈ [.inc, .dec]) (m : Byte) (s : State) :
    ∃ r, modifier mn m s = .ok (r, s) ∧ (mn = .inc → r.toNat = (m.toNat + 1) % 256) ∧
      (mn = .dec → r.toNat = (m.toNat + 255) % 256) := by
  simp only [List.mem_cons, List.not_mem_nil, or_false] at hm
  rcases hm with rfl | rfl
  · exact ⟨incByte m, rfl, fun _ => incByte_toNat m, by simp⟩
  · exact ⟨decByte m, rfl, by simp, fun _ => decByte_toNat m⟩

/-- The end of a read-modify-write whose change of the byte touches no more than A and P: the byte stored, the two
records, what is as before, and the frame. -/
theorem modifyMem_end {fs : List Flag} {r : Byte} {c : Nat} (hm : i.mnemonic ∈ [.inc, .dec, .asl, .lsr, .rol, .ror])
    (ho : i.operand = some o) (hv : resolve o s = .ok v) (hu : sameOutsideAP (memRead8 v.value v.state).2 u)
    (hf : Frame [] fs [v.value] s u) (hz : .z ∈ fs) (hn : .n ∈ fs)
    (ht : t = ((memWrite8 v.value r u).setNZ r).retire c) :
    (s.bus.wf = true → t.peek v.value = storedAs s v.value r) ∧
      t.bus.log = s.bus.log ++ [⟨.read, v.value, (memRead8 v.value v.state).1.setWidth 16, s.bus.seq⟩,
        ⟨.write, v.value, r.setWidth 16, s.bus.seq + 1⟩] ∧
      t.bus = (memWrite8 v.value r (memRead8 v.value v.state).2).bus ∧ endsWithCost t c ∧ t.sp = s.sp ∧ t.pc = s.pc ∧
      t.addrLatch = v.value ∧ Frame [] fs [v.value] s t := by
  have hres := resolve_effect hv
  have hread := memRead8_accessed v.value v.state
  have hwrite := memWrite8_accessed v.value r u
  have hstart : v.state.bus = s.bus := by rw [resolve_of_modifyMem hm ho hv, State.setAddrLatch_bus]
  have hcore := hres.core.trans hread.core
  have htb : t.bus = (memWrite8 v.value r u).bus := by rw [ht, State.retire_bus, State.setNZ_bus]
  refine ⟨fun hwf => ?stored, ?log, htb.trans (memWrite8_bus _ _ hu.bus), ht ▸ retire_endsWithCost _ _, ?sp, ?pc,
    ?latch, ht ▸ ((hf.memWrite8 (List.mem_singleton_self _) r).setNZ hz hn r).retire c⟩
  case stored =>
    rw [State.peek_of_bus htb]
    refine stored_after ?_ ?_ ?_ r <;> rw [hu.bus]
    · exact hread.map.trans hres.map
    · exact (memRead8_storage _ _).trans hres.storage
    · exact hread.wf (hres.wf (Bus.wf_devs hwf))
  case log =>
    rw [htb, hwrite.log, hu.bus, hread.log, hread.seq, hstart, List.append_assoc]
    rfl
  case sp => simp [ht, hwrite.core.sp, hu.sp, hcore.sp]
  case pc => simp [ht, hwrite.core.pc, hu.pc, hcore.pc]
  case latch => simp [ht, hwrite.latch, hu.addrLatch, hread.latch, hres.latch]

/-- Settles O46: a read-modify-write whose change of the byte is `modifier_of_step`. -/
theorem incrementAndDecrementMemory : Obligations.IncrementAndDecrementMemory := by
  refine ⟨by decide, by decide, fun i o s hm ho hready => ?_⟩
  obtain ⟨v, hv⟩ := resolve_of_ready hready
  have hmod : i.mnemonic ∈ [.inc, .dec, .asl, .lsr, .rol, .ror] :=
    (by decide : [Mnemonic.inc, .dec] ⊆ [.inc, .dec, .asl, .lsr, .rol, .ror]) hm
  obtain ⟨r, hr, hinc, hdec⟩ := modifier_of_step hm (memRead8 v.value v.state).1 (memRead8 v.value v.state).2
  have hframe : Frame [] [.z, .n] [v.value] s (memRead8 v.value v.state).2 :=
    ((Frame.refl _ _ _ s).resolve hv).memRead8 _
  exact ⟨v, _, _, r, hv, rfl, exec_modifyMem_next hmod ho hv hr, hinc, hdec, (setNZ_nzOf _ _).retire _,
    modifyMem_end hmod ho hv (sameOutsideAP.refl _) hframe (by simp) (by simp) rfl⟩

/-! ## X and Y -/

theorem bumpReg_eq {r : Reg} (f : Byte → Byte) (opc : Byte) (h : s.regWritten r = true) :
    bumpReg r f opc s = .ok (((s.setReg r (f (s.reg r))).setNZ (f (s.reg r))).retire (baseCost s.cfg opc)) := by
  simp only [bumpReg, readReg_of h]
  rfl

/-- A step of a register is a result put in it with its N and Z. -/
theorem completes_with_step {r : Reg} {f : Byte → Byte} {opc : Byte} {c k : Nat} (h : s.regWritten r = true)
    (hexec : exec i s = outcome (bumpReg r f opc s)) (hc : (rowOf? opc).map Row.cost = some c)
    (hf : ∀ m, (f m).toNat = (m.toNat + k) % 256) :
    ∃ t n, exec i s = .next t ∧ n.toNat = ((s.reg r).toNat + k) % 256 ∧ t.holds r n ∧ t.nzOf n ∧
      endsWithFixedCost s t opc c ∧ t.sp = s.sp ∧ t.pc = s.pc ∧ t.addrLatch = s.addrLatch ∧ logsNone s t ∧
      Frame [r] [.z, .n] [] s t := by
  obtain ⟨t, hnext, hrest⟩ := completes_with_result (hexec.trans (congrArg outcome (bumpReg_eq f opc h))) hc
  exact ⟨t, _, hnext, hf _, hrest⟩

/-- Settles O47: each is one `bumpReg`, by one up or by one down. -/
theorem incrementAndDecrementRegisters : Obligations.IncrementAndDecrementRegisters := by
  intro i r opc k hi
  simp only [List.mem_cons, Prod.mk.injEq, List.not_mem_nil, or_false] at hi
  rcases hi with ⟨rfl, rfl, rfl, rfl⟩ | ⟨rfl, rfl, rfl, rfl⟩ | ⟨rfl, rfl, rfl, rfl⟩ | ⟨rfl, rfl, rfl, rfl⟩
  · exact ⟨rfl, fun s hr => completes_with_step hr rfl rfl incByte_toNat⟩
  · exact ⟨rfl, fun s hr => completes_with_step hr rfl rfl incByte_toNat⟩
  · exact ⟨rfl, fun s hr => completes_with_step hr rfl rfl decByte_toNat⟩
  · exact ⟨rfl, fun s hr => completes_with_step hr rfl rfl decByte_toNat⟩

end Sys2Proof.Machine
end

section
/-! Shifts and rotates, of memory and of A (44_shift_rotate.md R230 to R234). -/

namespace Sys2Proof.Machine

variable {s t : State} {i : Instr} {mn : Mnemonic}

/-! ## The byte, over the naturals -/

theorem getLsbD_seven (m : Byte) : m.getLsbD 7 = decide (128 ≤ m.toNat) :=
  (BitVec.msb_eq_getLsbD_last m).symm.trans (BitVec.msb_eq_decide m)

theorem getLsbD_zero (m : Byte) : m.getLsbD 0 = decide (m.toNat % 2 = 1) := Nat.testBit_zero m.toNat

theorem shiftLeft_one_toNat (m : Byte) : (m <<< 1).toNat = 2 * m.toNat % 256 := by
  rw [BitVec.toNat_shiftLeft, Nat.shiftLeft_eq, Nat.mul_comm]

theorem shiftRight_one_toNat (m : Byte) : (m >>> 1).toNat = m.toNat / 2 := by
  rw [BitVec.toNat_ushiftRight, Nat.shiftRight_eq_div_pow]

/-- The bit ROL shifts in stands where `m <<< 1` has a 0, so it is added (R233). -/
theorem rotateLeft_toNat (m : Byte) (c : Bool) :
    (m <<< 1 ||| (BitVec.ofBool c).setWidth 8).toNat = (2 * m.toNat + c.toNat) % 256 := by
  have hdisjoint : m <<< 1 &&& (BitVec.ofBool c).setWidth 8 = 0#8 := by
    ext k hk
    rcases Nat.eq_zero_or_pos k with rfl | h
    · simp
    · simp [BitVec.getLsbD_of_ge (BitVec.ofBool c) k h]
  have hin : ((BitVec.ofBool c).setWidth 8).toNat = c.toNat := by cases c <;> rfl
  rw [← BitVec.add_eq_or_of_and_eq_zero _ _ hdisjoint, BitVec.toNat_add, shiftLeft_one_toNat, hin, Nat.mod_add_mod]

/-- The bit ROR shifts in stands at the top, where `m >>> 1` has a 0, so 128 times it is added (R234). -/
theorem rotateRight_toNat (m : Byte) (c : Bool) :
    (m >>> 1 ||| (BitVec.ofBool c).setWidth 8 <<< 7).toNat = m.toNat / 2 + 128 * c.toNat := by
  have hdisjoint : m >>> 1 &&& (BitVec.ofBool c).setWidth 8 <<< 7 = 0#8 := by
    ext k hk
    rcases Nat.lt_or_ge k 7 with h | h
    · simp [h]
    · simp [BitVec.getLsbD_of_ge m (1 + k) (by omega)]
  have hin : ((BitVec.ofBool c).setWidth 8 <<< 7).toNat = 128 * c.toNat := by cases c <;> rfl
  have hc := c.toNat_lt
  have hm := m.isLt
  rw [← BitVec.add_eq_or_of_and_eq_zero _ _ hdisjoint, BitVec.toNat_add, shiftRight_one_toNat, hin]
  omega

/-- C takes the bit that leaves the byte (R231 to R234). -/
theorem shiftCarry_eq_getLsbD (mn : Mnemonic) (m : Byte) :
    shiftCarry mn m = m.getLsbD (if mn = .asl ∨ mn = .rol then 7 else 0) := by
  unfold shiftCarry
  split
  · exact (getLsbD_seven m).symm
  · exact (getLsbD_zero m).symm

theorem rotateIn_eq (cfg : Config) (old new : Bool) :
    rotateIn cfg old new = if cfg.rotateCarryIn = .old then old else new := by
  unfold rotateIn
  cases cfg.rotateCarryIn <;> rfl

/-! ## The change of the byte -/

/-- A shift that may read C gives the byte of `shiftResult` and sets C alone, to `shiftCarry`. -/
theorem modifier_of_shift (hm : mn ∈ Mnemonic.shifts) (hc : s.carryReadable mn) (m : Byte) :
    ∃ r, modifier mn m s = .ok (r, s.setFlag .c (shiftCarry mn m)) ∧
      r.toNat = shiftResult s.cfg mn m (s.flag .c) := by
  rw [shiftCarry_eq_getLsbD]
  simp only [Mnemonic.shifts, List.mem_cons, List.not_mem_nil, or_false] at hm
  rcases hm with rfl | rfl | rfl | rfl
  · exact ⟨m <<< 1, rfl, shiftLeft_one_toNat m⟩
  · exact ⟨m >>> 1, rfl, shiftRight_one_toNat m⟩
  · refine ⟨_, congrArg (· >>= _) (readFlag_of (hc (.inl rfl))), ?_⟩
    rw [rotateLeft_toNat, rotateIn_eq, getLsbD_seven]
    rfl
  · refine ⟨_, congrArg (· >>= _) (readFlag_of (hc (.inr rfl))), ?_⟩
    rw [rotateRight_toNat, rotateIn_eq, getLsbD_zero]
    rfl

/-- Half a byte is below 128, so LSR clears N (R232). -/
theorem lsr_clears_n {cfg : Config} {m r : Byte} {c : Bool} (hr : r.toNat = shiftResult cfg mn m c) (ht : t.nzOf r)
    (hm : mn = .lsr) : t.flag .n = false := by
  have hhalf : r.toNat = m.toNat / 2 := by rw [hr, hm]; rfl
  have hlt := m.isLt
  obtain ⟨-, hn, -⟩ := ht
  rw [hn, getLsbD_seven, decide_eq_false_iff_not]
  omega

/-! ## Memory -/

theorem setFlag_outside (s : State) (f : Flag) (b : Bool) : sameOutsideAP s (s.setFlag f b) := rfl

/-- C outlasts the byte's write and its N and Z. -/
theorem memWrite8_keeps_carry (a : BusAddr) (r : Byte) (c : Bool) (s : State) :
    ((memWrite8 a r (s.setFlag .c c)).setNZ r).flagIs .c c := by
  have hcore := (memWrite8_accessed a r (s.setFlag .c c)).core
  simp [State.flagIs, hcore.flag, hcore.flagWritten]

/-- Settles O49: a read-modify-write whose change of the byte is `modifier_of_shift`, on the state the read leaves. -/
theorem memoryShifts : Obligations.MemoryShifts := by
  refine ⟨by decide, by decide, by decide, by decide, fun i o s hm ho hready hc => ?_⟩
  obtain ⟨v, hv⟩ := resolve_of_ready hready
  have hmod : i.mnemonic ∈ [.inc, .dec, .asl, .lsr, .rol, .ror] :=
    (by decide : Mnemonic.shifts ⊆ [.inc, .dec, .asl, .lsr, .rol, .ror]) hm
  have hcore := (resolve_effect hv).core.trans (memRead8_effect v.value v.state).core
  obtain ⟨r, hr, hresult⟩ := modifier_of_shift hm (fun h => (hcore.flagWritten .c).trans (hc h))
    (memRead8 v.value v.state).1
  rw [hcore.cfg, hcore.flag] at hresult
  have hread : Frame [] [.c, .z, .n] [v.value] s (memRead8 v.value v.state).2 :=
    ((Frame.refl _ _ _ s).resolve hv).memRead8 _
  exact ⟨v, _, _, r, hv, rfl, exec_modifyMem_next hmod ho hv hr, hresult, (setNZ_nzOf _ r).retire _,
    (memWrite8_keeps_carry ..).retire _, lsr_clears_n hresult ((setNZ_nzOf _ r).retire _),
    modifyMem_end hmod ho hv (setFlag_outside ..) (hread.setFlag (by simp) _) (by simp) (by simp) rfl⟩

/-! ## A -/

/-- The cost column of 30_encoding.md R121 for the four accumulator forms. -/
theorem accumulatorShift_cost (hm : i.mnemonic ∈ Mnemonic.shifts) (ho : i.operand = none) :
    (rowOf? i.opcode).map Row.cost = some 2 := by
  cases i <;> simp [Instr.mnemonic, Mnemonic.shifts] at hm <;> cases ho <;> rfl

/-- Settles O48: the change of A is `modifier_of_shift`, and the result goes to A with its N and Z. -/
theorem accumulatorShifts : Obligations.AccumulatorShifts := by
  intro i s hm ho ha hc
  obtain ⟨r, hr, hresult⟩ := modifier_of_shift hm hc s.a
  have hnext := (exec_modifyAcc hm ho s).trans (congrArg outcome (modifyAcc_eq i.opcode ha hr))
  have hcarry : Frame [.a] [.c, .z, .n] [] s (s.setFlag .c (shiftCarry i.mnemonic s.a)) :=
    (Frame.refl _ _ _ s).setFlag (by simp) _
  exact ⟨_, r, hnext, hresult, result_holds _ _ _ _, (setNZ_nzOf _ r).retire _, by simp [State.flagIs],
    lsr_clears_n hresult ((setNZ_nzOf _ r).retire _), retire_endsWithFixedCost s _ (accumulatorShift_cost hm ho), rfl,
    rfl, rfl, ⟨rfl, rfl⟩, ((hcarry.setReg (by simp) r).setNZ (by simp) (by simp) r).retire _⟩

end Sys2Proof.Machine
end

section
/-! Jumps and branches: the target, the cost, and what each leaves (45_control.md R240, R243 to R253;
70_reset_and_hazards.md R339). -/

namespace Sys2Proof.Machine

variable {s : State} {i : Instr} {o : Operand} {v : Resolved}

/-! ## JMP -/

/-- A jump that completes is its resolver, then PC from the resolved value. -/
theorem exec_jmp_next (hm : i.mnemonic = .jmp) (ho : i.operand = some o) (hv : resolve o s = .ok v) :
    exec i s = .next ((v.state.setPc (v.value.setWidth 16)).retire (baseCost s.cfg i.opcode)) := by
  rw [exec_jmp hm ho, jump, hv]
  rfl

theorem busAddr_setWidth_word (w : Word) : (w.setWidth 17 : BusAddr).setWidth 16 = w := by simp

/-- Settles O50: both forms are `exec_jmp_next`, at the operand itself and at the short its pointer's read gives. -/
theorem jumpResults : Obligations.JumpResults := by
  refine ⟨by decide, fun addr s => ?abs, fun addr s hfit => ?ind⟩
  case abs =>
    exact ⟨_, exec_jmp_next (o := .abs addr) rfl rfl rfl, busAddr_setWidth_word addr, rfl,
      retire_endsWithFixedCost (opc := 0x4C#8) s _ rfl, rfl, ⟨rfl, rfl⟩,
      (((Frame.refl _ _ _ s).resolve (o := .abs addr) rfl).setPc _).retire _⟩
  case ind =>
    obtain ⟨⟨w, u⟩, hread⟩ := memRead16_of_fits hfit
    have hv := resolve_ind hread
    have e := (memRead16_accessed hread).1
    exact ⟨w, u, _, hread, exec_jmp_next rfl rfl hv, busAddr_setWidth_word w, rfl,
      retire_endsWithFixedCost (opc := 0x6C#8) s _ rfl, e.core.sp, e.logsOne, rfl,
      (((Frame.refl _ _ _ s).resolve hv).setPc _).retire _⟩

/-! ## The eight branches -/

/-- The cost of a branch that is taken, by the page test of R245. -/
theorem takenCost_eq (cfg : Config) (a b : Nat) :
    (3 + if pageCrossed cfg a b then 1 else 0) = if a / cfg.pageDivisor = b / cfg.pageDivisor then 3 else 4 := by
  by_cases h : a / cfg.pageDivisor = b / cfg.pageDivisor <;> simp [pageCrossed, h]

section
variable {f : Flag} {on : Bool} {rr : Byte}

/-- A taken branch latches its offset and goes to the target. -/
theorem branch_of_taken (hw : s.flagWritten f = true) (h : s.flag f = on) :
    branch f on (.rel rr) s = .ok (((s.setAddrLatch (rr.setWidth 17)).setPc (branchTarget s.cfg s.pc rr)).retire
      (3 + if pageCrossed s.cfg s.pc.toNat (branchTarget s.cfg s.pc rr).toNat then 1 else 0)) := by
  have hoffset : (rr.setWidth 17 : BusAddr).setWidth 8 = rr := by simp
  have hflag : readFlag f (s.setAddrLatch (rr.setWidth 17)) = .ok on :=
    h ▸ readFlag_of (s := s.setAddrLatch (rr.setWidth 17)) hw
  simp only [branch, resolve, Result.ok_bind, resolvedAt, hflag, if_pos, hoffset]
  rfl

/-- A branch that is not taken latches its offset and nothing else. -/
theorem branch_of_not_taken (hw : s.flagWritten f = true) (h : s.flag f ≠ on) :
    branch f on (.rel rr) s = .ok ((s.setAddrLatch (rr.setWidth 17)).retire 2) := by
  have hflag : readFlag f (s.setAddrLatch (rr.setWidth 17)) = .ok (s.flag f) := readFlag_of hw
  simp only [branch, resolve, Result.ok_bind, resolvedAt, hflag, if_neg h]
  rfl

end

/-- Settles O53, from the two ways a branch ends. -/
theorem branchResults : Obligations.BranchResults := by
  refine ⟨fun m opc hm => (by decide : ∀ p ∈ _, p.1.opcodes = [(Mode.rel, p.2)]) (m, opc) hm,
    fun i f on o s hm ho hw => ?_⟩
  obtain ⟨rr, rfl⟩ := operand_of_branch hm ho
  have hlatch : Frame [] [] [] s (s.setAddrLatch (rr.setWidth 17)) :=
    (Frame.refl _ _ _ s).resolve (o := .rel rr) rfl
  by_cases ht : s.flag f = on
  · exact ⟨_, rr, rfl, (exec_branch hm ho s).trans (congrArg outcome (branch_of_taken hw ht)),
      fun _ => ⟨rfl, takenCost_eq s.cfg _ _ ▸ retire_endsWithCost _ _⟩, fun hn => absurd ht hn, rfl,
      setWidth_byte_toNat rr, ⟨rfl, rfl⟩, (hlatch.setPc _).retire _⟩
  · exact ⟨_, rr, rfl, (exec_branch hm ho s).trans (congrArg outcome (branch_of_not_taken hw ht)),
      fun h => absurd h ht, fun _ => ⟨rfl, retire_endsWithCost _ _⟩, rfl, setWidth_byte_toNat rr, ⟨rfl, rfl⟩,
      hlatch.retire _⟩

/-! ## The target -/

/-- A sum is the union of the bits and the bits in common. -/
theorem or_add_and {w : Nat} (x y : BitVec w) : (x ||| y) + (x &&& y) = x + y := by
  have hunion : x + (y &&& ~~~x) = x ||| y := by
    rw [BitVec.add_eq_or_of_and_eq_zero]
    all_goals ext k hk; cases hx : x[k] <;> simp [hx]
  have hsplit : (y &&& ~~~x) + (x &&& y) = y := by
    rw [BitVec.add_eq_or_of_and_eq_zero]
    all_goals ext k hk; cases hx : x[k] <;> simp [hx]
  rw [← hunion, BitVec.add_assoc, hsplit]

theorem setWidth_word_of_byte_toNat (b : Byte) : (b.setWidth 16 : Word).toNat = b.toNat :=
  BitVec.toNat_setWidth_of_le (by decide)

/-- A byte widened with its sign, over the naturals. -/
theorem signExtend_byte_toNat (b : Byte) :
    (b.signExtend 16 : Word).toNat = b.toNat + if b.toNat < 128 then 0 else 0xFF00 := by
  rw [BitVec.toNat_signExtend, setWidth_word_of_byte_toNat, BitVec.msb_eq_decide]
  by_cases h : b.toNat < 128 <;> simp [h]

/-- An OR with a byte stays in the 256-byte block (R339). -/
theorem or_byte_block (pc : Word) (b : Byte) : (pc ||| b.setWidth 16).toNat / 256 = pc.toNat / 256 := by
  have hb : b.toNat / 2 ^ 8 = 0 := Nat.div_eq_of_lt b.isLt
  have h := Nat.or_div_two_pow (a := pc.toNat) (b := b.toNat) (n := 8)
  rwa [hb, Nat.or_zero, ← setWidth_word_of_byte_toNat, ← BitVec.toNat_or] at h

/-- An OR goes nowhere exactly when its bits are set (R339). -/
theorem or_eq_left_iff_and_eq {w : Nat} (x y : BitVec w) : x ||| y = x ↔ x &&& y = y := by
  have h := or_add_and x y
  constructor <;> intro he <;> rw [he] at h
  · exact add_left_cancel h
  · exact add_right_cancel h

/-- The OR and the signed sum agree on a forward offset without a common bit, and only there: the common bits are less
than the 256 by which a negative offset differs from its byte (R339). -/
theorem or_eq_signed_sum_iff (pc : Word) (b : Byte) :
    pc ||| b.setWidth 16 = pc + b.signExtend 16 ↔ b.toNat < 128 ∧ pc &&& b.setWidth 16 = 0#16 := by
  have hsum := congrArg BitVec.toNat (or_add_and pc (b.setWidth 16))
  have hcommon : (pc &&& b.setWidth 16).toNat ≤ b.toNat := by
    rw [BitVec.toNat_and, setWidth_word_of_byte_toNat]
    exact Nat.and_le_right
  have hb := b.isLt
  have hor := (pc ||| b.setWidth 16).isLt
  have hpc := pc.isLt
  rw [BitVec.toNat_add, BitVec.toNat_add, setWidth_word_of_byte_toNat] at hsum
  simp only [← BitVec.toNat_inj, BitVec.toNat_add, signExtend_byte_toNat, BitVec.toNat_ofNat]
  split <;> omega

/-- Settles O54: the laws of the OR above, and the signed sum over the integers. -/
theorem branchTargets : Obligations.BranchTargets := by
  refine ⟨rfl, fun cfg pc rr => ⟨fun h => ?zext, fun h => ?sext, fun h => ?signed, or_eq_signed_sum_iff pc rr⟩⟩
  case zext =>
    have ht : branchTarget cfg pc rr = pc ||| rr.setWidth 16 := by simp only [branchTarget, h]
    rw [ht]
    exact ⟨rfl, by rw [BitVec.toNat_or]; exact Nat.left_le_or, or_byte_block pc rr, or_eq_left_iff_and_eq _ _⟩
  case sext => simp only [branchTarget, h]
  case signed =>
    have ht : branchTarget cfg pc rr = pc + rr.signExtend 16 := by simp only [branchTarget, h]
    rw [ht, BitVec.toNat_add, signExtend_byte_toNat]
    split <;> omega

end Sys2Proof.Machine
end

section
/-! BRK and RTI: the return address and P on the stack, and back (45_control.md R254, R255; 60_exceptions.md R308,
R309). -/

namespace Sys2Proof.Machine

variable {s t u s1 : State} {w : Word} {b : Byte}

/-! ## What BRK has done when it reads its vector -/

/-- The three bytes of BRK's two pushes are apart, whatever SP: the short's second byte may lie past the page. -/
theorem stackAddr_sub_three_apart (cfg : Config) (q : Byte) :
    stackAddr cfg (q - 3) ∉ [stackAddr cfg (q - 2), stackAddr cfg (q - 2) + 1] := by
  have hshort := stackAddr_toNat cfg (q - 2)
  have hstatus := stackAddr_toNat cfg (q - 3)
  simp only [List.mem_cons, List.not_mem_nil, or_false, not_or]
  constructor <;> bv_omega

/-- `u` is `s` with the return address `w` and the byte `b` pushed and I set. -/
structure BreakPushed (w : Word) (b : Byte) (s u : State) : Prop where
  sp : u.sp = s.sp - 3
  latch : u.addrLatch = s.addrLatch
  interrupt : u.flagIs .i true
  log : u.bus.log = s.bus.log ++ [⟨.write, stackAddr s.cfg (s.sp - 2), w, s.bus.seq⟩,
    ⟨.write, stackAddr s.cfg (s.sp - 3), b.setWidth 16, s.bus.seq + 1⟩]
  seq : u.bus.seq = s.bus.seq + 2
  wf : s.bus.wf = true → u.bus.wf = true
  short : s.bus.wf = true → storesShort s u (stackAddr s.cfg (s.sp - 2)) w
  status : s.bus.wf = true → u.peek (stackAddr s.cfg (s.sp - 3)) = storedAs s (stackAddr s.cfg (s.sp - 3)) b
  frame : Frame [] [.i] [stackAddr s.cfg (s.sp - 2), stackAddr s.cfg (s.sp - 2) + 1, stackAddr s.cfg (s.sp - 3)] s u

/-- The byte's push leaves the short that was pushed before it. -/
theorem breakPushed (b : Byte) (h : push16 w s = .ok s1) : BreakPushed w b s ((push8 b s1).setFlag .i true) := by
  have e := push16_accessed h
  have hsp : s1.sp - 1 = s.sp - 3 := by
    rw [show s1.sp = s.sp - 2 from e.core.sp, BitVec.sub_sub]
    rfl
  have hplace : stackAddr s1.cfg (s1.sp - 1) = stackAddr s.cfg (s.sp - 3) := by rw [e.core.cfg, hsp]; rfl
  have hframe : Frame [] [.i] [stackAddr s.cfg (s.sp - 2), stackAddr s.cfg (s.sp - 2) + 1] s s1 :=
    (Frame.refl _ _ _ s).push16 (by simp) (by simp) h
  have hapart := stackAddr_sub_three_apart s.cfg s.sp
  have hother {a : BusAddr} (ha : a ∈ [stackAddr s.cfg (s.sp - 2), stackAddr s.cfg (s.sp - 2) + 1]) :
      ((push8 b s1).setFlag .i true).peek a = s1.peek a :=
    memWrite8_peek_other b (s1.setSp (s1.sp - 1)) fun hx => hapart (hplace ▸ hx ▸ ha)
  obtain ⟨hlog, hseq⟩ := push16_logsOne h
  obtain ⟨hlog', hseq'⟩ := push8_logsOne b s1
  refine ⟨(push8_sp b s1).trans hsp, (push8_addrLatch b s1).trans e.latch, by simp [State.flagIs], ?log,
    by rw [State.setFlag_bus, hseq', hseq], fun hw => push8_busWf b (e.busWf hw), fun hw => ?short, fun hw => ?status,
    ?frame⟩
  case log =>
    rw [State.setFlag_bus, hlog', hlog, hseq, hplace, List.append_assoc]
    rfl
  case short =>
    obtain ⟨hlow, hhigh⟩ := push16_storesShort h hw
    exact ⟨(hother (by simp)).trans hlow, fun ho => (hother (by simp)).trans (hhigh ho)⟩
  case status =>
    have hstored := push8_peek_same b (e.busWf hw)
    rw [hplace] at hstored
    refine hstored.trans ?_
    rw [storedAs, storedAs, State.isRam_fixed hframe.machine.map hframe.machine.fixed, hframe.memory _ hapart]
  case frame =>
    exact ((hframe.mono (List.Subset.refl _) (List.Subset.refl _) (by simp)).push8 (hplace ▸ by simp) b).setFlag
      (by simp) true

/-! ## BRK -/

/-- BRK is its read of P, its two pushes with I set, and the short read of its vector (R254). -/
theorem exec_brk_iff : exec .brk s = .next t ↔
    ∃ s1 r, s.statusReadable ∧ push16 (s.pc + 1) s = .ok s1 ∧
      memRead16 (s.cfg.brkVector.setWidth 17) ((push8 (s.p ||| s.cfg.phpMask) s1).setFlag .i true) = .ok r ∧
      (r.2.setPc r.1).retire (baseCost s.cfg 0x00#8) = t := by
  have hcfg {b : Byte} {s1 : State} (h : push16 (s.pc + 1) s = .ok s1) : ((push8 b s1).setFlag .i true).cfg = s.cfg :=
    (breakPushed b h).frame.machine.cfg
  by_cases hr : s.statusReadable
  · simp only [exec, execBrk, outcome_next, breakEntry, takeBreak, pushedStatus_of hr, Result.ok_bind, Result.bind_ok,
      Result.pure_ok]
    constructor
    · rintro ⟨_, ⟨s1, hpush, r, hread, rfl⟩, rfl⟩
      rw [hcfg hpush] at hread
      exact ⟨s1, r, hr, hpush, hread, rfl⟩
    · rintro ⟨s1, r, -, hpush, hread, rfl⟩
      exact ⟨_, ⟨s1, hpush, r, by rw [hcfg hpush]; exact hread, rfl⟩, rfl⟩
  · obtain ⟨g, -, -, hf⟩ := pushedStatus_of_not hr
    simp [exec, execBrk, outcome_next, breakEntry, takeBreak, hf, hr]

/-- A read leaves the short that was stored. -/
theorem storesShort.of_storage {a : BusAddr} (h : storesShort s t a w) (hm : u.bus.map = t.bus.map)
    (hs : u.bus.storagePart = t.bus.storagePart) : storesShort s u a w := by
  obtain ⟨hlow, hhigh⟩ := h
  exact ⟨(State.peek_congr hm hs a).trans hlow, fun ho => (State.peek_congr hm hs (a + 1)).trans (hhigh ho)⟩

/-! ## RTI -/

/-- RTI is a byte read to P and a short read above it to PC (R255). -/
theorem exec_rti_next {st : Byte} {r : Word × State} (hst : memRead8 (stackAddr s.cfg s.sp) s = (st, s1))
    (hr : memRead16 (stackAddr s.cfg (s.sp + 1)) ((s1.setP st).setSp (s.sp + 1)) = .ok r) :
    exec .rti s = .next (((r.2.setSp (s.sp + 3)).setPc r.1).retire (baseCost s.cfg 0x40#8)) := by
  have hcfg : s1.cfg = s.cfg := by
    have h := (memRead8_effect (stackAddr s.cfg s.sp) s).core.cfg
    rwa [hst] at h
  have hpull := pull16_of_read (s := (s1.setP st).setSp (s.sp + 1)) ((hcfg ▸ hr :))
  have hsp : s.sp + 1 + 2 = s.sp + 3 := BitVec.add_assoc _ _ _
  simp only [exec, execRti, returnInterrupt, returnFromBreak, hst, hpull, Result.ok_bind, hsp, State.setSp_sp]
  rfl

/-- A BRK onto RAM leaves P with the mask at SP and the return address as a short above it (R254, 20_memory.md R75). -/
theorem brk_leaves_status_and_return_address (hw : s.bus.wf = true)
    (hlowRam : s.isRam (stackAddr s.cfg (s.sp - 2)) = true) (hhighRam : s.isRam (stackAddr s.cfg (s.sp - 2) + 1) = true)
    (ho : s.sameOwner (stackAddr s.cfg (s.sp - 2)) (stackAddr s.cfg (s.sp - 2) + 1))
    (hstatusRam : s.isRam (stackAddr s.cfg (s.sp - 3)) = true) (h : exec .brk s = .next t) :
    t.cfg = s.cfg ∧ t.sp = s.sp - 3 ∧ t.peek (stackAddr s.cfg (s.sp - 3)) = some (s.p ||| s.cfg.phpMask) ∧
      t.peek16 (stackAddr s.cfg (s.sp - 2)) = some (s.pc + 1) := by
  obtain ⟨s1, ⟨w, u⟩, -, hpush, hread, rfl⟩ := exec_brk_iff.1 h
  have hpushed := breakPushed (s.p ||| s.cfg.phpMask) hpush
  obtain ⟨e, hstorage⟩ := memRead16_accessed hread
  have hmachine := (hpushed.frame.memRead16 hread).machine
  have hstatus : u.peek (stackAddr s.cfg (s.sp - 3)) = some (s.p ||| s.cfg.phpMask) :=
    (State.peek_congr e.map hstorage _).trans ((hpushed.status hw).trans (storedAs_of_isRam hstatusRam _))
  have hshort : u.peek16 (stackAddr s.cfg (s.sp - 2)) = some (s.pc + 1) :=
    peek16_of_storesShort ((hpushed.short hw).of_storage e.map hstorage) (e.busWf (hpushed.wf hw)) hmachine.map
      hmachine.fixed ho hlowRam hhighRam
  exact ⟨hmachine.cfg, e.core.sp.trans hpushed.sp, hstatus, hshort⟩

/-- RTI where the state shows P at SP and a short above it. -/
theorem exec_rti_of_peeks {st : Byte} {w : Word} (hst : s.peek (stackAddr s.cfg s.sp) = some st)
    (hw : s.peek16 (stackAddr s.cfg (s.sp + 1)) = some w) :
    ∃ u, exec .rti s = .next u ∧ u.pc = w ∧ u.sp = s.sp + 3 ∧ u.p = st :=
  ⟨_, exec_rti_next (memRead8_of_peek hst) (memRead16_of_peek16 hw), rfl, rfl, rfl⟩

end Sys2Proof.Machine

namespace Sys2Proof

open Machine

/-- Settles O55: the pushes are `breakPushed`, and the vector's read leaves what they stored. (`Machine.breakEntry` is
BRK's meaning, so this theorem stands outside `Machine`.) -/
theorem breakEntry : Obligations.BreakEntry := by
  refine ⟨rfl, rfl, fun s hfit hr hvector => ?_⟩
  obtain ⟨s1, hpush⟩ := push16_of_fits (s.pc + 1) hfit
  have h := breakPushed (s.p ||| s.cfg.phpMask) hpush
  obtain ⟨⟨w, s2⟩, hread⟩ := memRead16_of_fits (s := (push8 (s.p ||| s.cfg.phpMask) s1).setFlag .i true)
    ((Bus.shortFits_fixed h.frame.machine.map h.frame.machine.fixed _).trans hvector)
  obtain ⟨e, hstorage⟩ := memRead16_accessed hread
  refine ⟨s1, s2, w, _, hpush, hread, exec_brk_iff.2 ⟨s1, _, hr, hpush, hread, rfl⟩, rfl, rfl, e.core.sp.trans h.sp,
    ⟨(e.core.flag .i).trans h.interrupt.1, (e.core.flagWritten .i).trans h.interrupt.2⟩,
    retire_endsWithFixedCost s _ rfl, e.latch.trans h.latch, ?log,
    fun hw => ⟨(h.short hw).of_storage e.map hstorage, (State.peek_congr e.map hstorage _).trans (h.status hw)⟩,
    ((h.frame.memRead16 hread).setPc _).retire _⟩
  case log =>
    refine e.log.trans ?_
    rw [h.log, h.seq, List.append_assoc]
    rfl

/-- Settles O56: RTI is a byte read and a short pull; after a BRK they find what it pushed. -/
theorem returnFromInterrupt : Obligations.ReturnFromInterrupt := by
  refine ⟨rfl, fun s hfit => ?pulls, fun s t t' hw hlowRam hhighRam ho hstatusRam h hcfg hsp hstatus hshort =>
    ?undoes⟩
  case pulls =>
    have e := memRead8_accessed (stackAddr s.cfg s.sp) s
    obtain ⟨r, hread⟩ := memRead16_of_fits (s := ((memRead8 (stackAddr s.cfg s.sp) s).2.setP
      (memRead8 (stackAddr s.cfg s.sp) s).1).setSp (s.sp + 1)) ((Bus.shortFits_fixed e.map e.fixed _).trans hfit)
    have e' := (memRead16_accessed hread).1
    have hframe : Frame [] Flag.all [] s (memRead8 (stackAddr s.cfg s.sp) s).2 := (Frame.refl _ _ _ s).memRead8 _
    refine ⟨_, _, r.1, r.2, _, rfl, hread, exec_rti_next rfl hread, rfl, e'.core.p,
      congrArg Written.p e'.core.written, rfl, rfl, retire_endsWithFixedCost s _ rfl, e'.latch.trans e.latch, ?log,
      (((((hframe.setP (fun f => by cases f <;> decide) _).setSp _).memRead16 hread).setSp _).setPc _).retire _⟩
    case log =>
      refine e'.log.trans ?_
      rw [State.setSp_bus, State.setP_bus, e.log, e.seq, List.append_assoc]
      rfl
  case undoes =>
    obtain ⟨hc, hs, hst, hret⟩ := brk_leaves_status_and_return_address hw hlowRam hhighRam ho hstatusRam h
    rw [hc] at hcfg
    rw [hs] at hsp
    have hplace : s.sp - 3 + 1 = s.sp - 2 := by bv_omega
    have hback : s.sp - 3 + 3 = s.sp := BitVec.sub_add_cancel _ _
    rw [hst, ← hcfg, ← hsp] at hstatus
    rw [hret, ← hplace, ← hcfg, ← hsp] at hshort
    obtain ⟨u, hu, hpc, husp, hp⟩ := exec_rti_of_peeks hstatus hshort
    exact ⟨u, hu, hpc, husp.trans (by rw [hsp, hback]), hcfg ▸ hp⟩

end Sys2Proof
end

section
/-! Flag instructions and NOP: what each leaves (46_flags_misc.md R270 to R277). -/

namespace Sys2Proof.Machine

variable {i : Instr} {s : State} {opc : Byte}

theorem setFlag_flagIs (s : State) (f : Flag) (v : Bool) : (s.setFlag f v).flagIs f v := by simp [State.flagIs]

/-- An instruction that does no more than write one flag. -/
theorem completes_with_flag {f : Flag} {v : Bool} {c : Nat} (hexec : exec i s = outcome (assignFlag f v opc s))
    (hc : (rowOf? opc).map Row.cost = some c) :
    ∃ t, exec i s = .next t ∧ t.flagIs f v ∧ endsWithFixedCost s t opc c ∧ t.sp = s.sp ∧ t.pc = s.pc ∧
      t.addrLatch = s.addrLatch ∧ logsNone s t ∧ Frame [] [f] [] s t :=
  ⟨_, hexec, (setFlag_flagIs s f v).retire _, retire_endsWithFixedCost s _ hc, rfl, rfl, rfl, ⟨rfl, rfl⟩,
    ((Frame.refl _ _ _ s).setFlag (List.mem_singleton_self f) v).retire _⟩

/-- Settles O57: the seven are one `assignFlag` each, with their own flag and value, and NOP retires the machine as it
was. -/
theorem flagInstructions : Obligations.FlagInstructions := by
  refine ⟨fun i f v opc hi => ?flag, rfl, fun s => ?nop⟩
  case flag =>
    simp only [List.mem_cons, Prod.mk.injEq, List.not_mem_nil, or_false] at hi
    rcases hi with ⟨rfl, rfl, rfl, rfl⟩ | ⟨rfl, rfl, rfl, rfl⟩ | ⟨rfl, rfl, rfl, rfl⟩ | ⟨rfl, rfl, rfl, rfl⟩ |
      ⟨rfl, rfl, rfl, rfl⟩ | ⟨rfl, rfl, rfl, rfl⟩ | ⟨rfl, rfl, rfl, rfl⟩ <;>
      exact ⟨rfl, fun s => completes_with_flag rfl rfl⟩
  case nop =>
    exact ⟨_, rfl, retire_endsWithFixedCost s _ rfl, rfl, rfl, rfl, ⟨rfl, rfl⟩, (Frame.refl _ _ _ s).retire _⟩

end Sys2Proof.Machine
end
